-- ==== Sys2Proof/Word.lean ====
section
/-!
DEFINITION. The word types of the Korlith K8 and sparse register files: the plainest data every other file uses.
-/

namespace Sys2Proof

/-- A scalar register or a 64-bit word of memory (R144). -/
abbrev Word := BitVec 64

/-- One row of a bank or frame: 64 bytes, byte k at bits 8k+7..8k (R2, R75). -/
abbrev Row := BitVec 512

/-- A vector register: 1,024 lanes of 32 bits, lane i at bits 32i+31..32i (R176). -/
abbrev Vec := BitVec 32768

/-- One accumulator row: 256 elements of 128 bits, element j at bits 128j+127..128j (R70). -/
abbrev AccRow := BitVec 32768

/-- One cell row of the matrix tile: 256 cells of 32 bits (R194). -/
abbrev TileRow := BitVec 8192

/-- A route store entry (R84). -/
abbrev Route := BitVec 11776

/-- A layout record (R87). -/
abbrev Rec := BitVec 768

/-- A coordinate register: nine signed 24-bit coordinates (R93). -/
abbrev Coord := BitVec 216

/-- An epilogue parameter block (R206). -/
abbrev EpBlock := BitVec 2048

/-- A sparse map from numbers to values: keys strictly rising, no entry equal to the default. -/
abbrev SMap (α : Type) := List (Nat × α)

namespace SMap

/-- The value at key `k`, or the default `z` of a key that is not listed. -/
def get {α : Type} (z : α) : SMap α → Nat → α
  | [], _ => z
  | (j, x) :: m, k => if j = k then x else get z m k

/-- The map with key `k` removed. -/
def del {α : Type} : SMap α → Nat → SMap α
  | [], _ => []
  | (j, x) :: m, k => if j = k then del m k else (j, x) :: del m k

/-- The map with `(k, x)` put in key order, where `k` is not yet listed. -/
def ins {α : Type} : SMap α → Nat → α → SMap α
  | [], k, x => [(k, x)]
  | (j, y) :: m, k, x => if k < j then (k, x) :: (j, y) :: m else (j, y) :: ins m k x

/-- Write `x` at key `k`, keeping the canonical form. -/
def set {α : Type} [DecidableEq α] (z : α) (m : SMap α) (k : Nat) (x : α) : SMap α :=
  if x = z then del m k else ins (del m k) k x

end SMap

end Sys2Proof
end

