-- ==== Sys2Proof/Config.lean ====
section
/-!
DEFINITION. The constants of the part's figures and the free values: what the spec leaves open, as opaque constants.
-/

namespace Sys2Proof.Config

/-- Banks of a compute die's wall (R75). -/
def banks : Nat := 1024
/-- Rows of a bank (R75). -/
def bankRows : Nat := 1536
/-- Bytes of a compute die's near tier: two stacks of 64 GiB (R14, R370). -/
def nearBytes : Nat := 2 * 2 ^ 36
/-- Bytes of a far die's LPDDR-6 (R14). -/
def farBytes : Nat := 512 * 2 ^ 30
/-- Bytes of the CXL memory a far die reaches: as attached (R15), so it is open; free value, entry 5.
DESIGN CHOICE, log entry 110. -/
opaque cxlBytes : Nat → Nat
/-- Bundles of a compute die's code store, and of a house sequencer's (R281). -/
def codeStore (die : Nat) : Nat := if die < 8 then 65536 else 16384

/-- 'More under load' (R236, R250, R239, R395): the extra delay of the n-th access beside the unloaded figure.
DESIGN CHOICE, log entry 5. -/
opaque extra : Nat → Nat
/-- Cycles, 0 to 12, from a SEND's issue until its row reaches the first link of its path: the spec gives only when it lands (R263).
DEDUCED, log entry 121. -/
opaque sendCross : Nat
/-- How long a device, the host or another package takes to answer the n-th request: as it answers (R236, R344). -/
opaque deviceDelay : Nat → Nat
/-- What a device or the host returns for the n-th read of a row. -/
opaque deviceRow : Nat → Row
/-- What the host IOMMU answers to the n-th request, for a 64 KiB page (R309): size, package page address, read and write. -/
opaque hostGrant : Nat → Nat → Option (Nat × Nat × Bool × Bool)
/-- Whether the host grants the n-th page request (R344). -/
opaque hostPri : Nat → Bool
/-- The element format of a page that another package holds (R323, R366). DESIGN CHOICE, log entry 51. -/
opaque remoteFmt : Nat → Nat
/-- A row of a frame whose contents are undefined (R333, R351), by its address. DESIGN CHOICE, log entry 53. -/
opaque freeRow : Nat → Nat → Row
/-- The CRC-32 of the 252 bytes of a flit (R356), whose polynomial the spec does not give. DESIGN CHOICE, log entry 108. -/
opaque crc32 : BitVec 2016 → BitVec 32
/-- Undefined accumulator elements at the n-th launch (R274). -/
opaque freeAcc : Nat → Nat → AccRow
/-- Undefined matrix tile cells at the n-th launch (R274). -/
opaque freeTile : Nat → Nat → TileRow
/-- A choice the spec leaves open between two outcomes (R326, R237, R256, R377). -/
opaque freeBit : Nat → Bool
/-- The undefined registers of a die after its reset, by counter and place (R351). -/
opaque freeBits : Nat → Nat → Nat
/-- A value that depends on the part: errors of a pattern run, an eye, a temperature trim (R378, R380, R381). -/
opaque freeWord : Nat → Word
/-- Which sub-arrays fail the n-th self-test (R213, R215): bits 0-15, and 16 for the spare. -/
opaque selfTestFail : Nat → BitVec 17
/-- The temperature of a DRAM layer at the n-th sample, in degrees (R374). -/
opaque temperature : Nat → Nat → Nat
/-- Average power of a die over its n-th window, in units of 0.1 W (R393). -/
opaque power : Nat → Nat → Nat
/-- 48 bytes of PUF output (R389). -/
opaque puf : BitVec 384
/-- The Creique root key hash in the mask ROM (R388). -/
opaque rootKeyHash : BitVec 384
/-- The secret number of the n-th signature (R390). -/
opaque nonceK : Nat → BitVec 384
/-- Where the image of a slot stands in the boot flash (R386). DESIGN CHOICE, log entry 87. -/
opaque flashSlot : Nat → Nat
/-- What a trims section says of a die (R386, stage 2), by its bytes as one number: the power cap in watts, and the sub-array that
the matrix array's spare replaces. -/
opaque trimCap : Nat → Nat → Nat
/-- See `trimCap`. -/
opaque trimSpare : Nat → Nat → Option Nat
/-- What a section of package CSR values says (R386, stage 5; R388), by its bytes as one number: RTBASE. -/
opaque imageRtbase : Nat → BitVec 64
/-- TVEC of a die. -/
opaque imageTvec : Nat → Nat → BitVec 32
/-- CRCTH of a stack. -/
opaque imageCrcth : Nat → Nat → BitVec 16
/-- A word of the region table, where the section gives it. -/
opaque imageRegion : Nat → Nat → Option (BitVec 64)
/-- What the training of link g of die d at bring-up finds, as STATE codes it: 1 up, 3 up with lanes repaired, else it fails (R365, R386,
stage 2). -/
opaque linkTrains : Nat → Nat → Nat
/-- What training at stage 4 finds: the taps and REPAIR of a pseudo-channel (R378, R386). -/
opaque trainedTap : Nat → Nat → BitVec 6
/-- See `trainedTap`; bit 4 EN, bit 5 DEAD, bits 2..0 LANE. -/
opaque trainedRepair : Nat → BitVec 6

end Sys2Proof.Config
end

