-- ==== Sys2Proof/Syntax.lean ====
section
/-!
DEFINITION. The syntax of the Korlith K8: one constructor for each row of the opcode table, the slot instructions with
their decoded operand fields and the part's own events with what they name.
-/

namespace Sys2Proof

/-- The trap and fault codes of R337. -/
inductive Code where
  | illegalOp | reservedBits | privilegedOp | stallShort | loopDepth | loopExit | codeRange | wrongPhase | landingFull
  | queueFull | tretState
  | wallRange | layoutReserved | bankConflict | wrongSpace | solverBusy
  | tileFormat | accMode | matrixRange | offsetOrder | offsetRange | shapeLost | matrixBusy | epilogueReserved
  | sortBusy | sortRange | sortShape | sortState
  | copyRange | copyFormat | copyShape
  | dieMask | wheelScope | sendTarget | tagReuse | sendLimit | sendUnmatched | plState
  | migrateAbort | pageFault | targetLost | uncorrectable
  | holdTimeout | dieLost | doubleFault | saveFault
  /-- USER-TRAP with the TRAP code 1-255 (R161). -/
  | userTrap (code : Nat)
  deriving DecidableEq, Repr

/-- The slots of a bundle, in slot order (R27, R120). -/
inductive Slot where
  | s0 | s1 | a | v | m | k | c | y
  deriving DecidableEq, Repr

/-- The operands of one unit of the V slot (R130, R131). -/
structure VArgs where
  /-- 0 VA, 1 VB, 2 VC. -/
  unit : Nat
  /-- The unit's TY bit: true for INT32 (R176). -/
  ty : Bool
  /-- VD, the destination of the cascade. -/
  vd : Nat
  /-- V1, the first source of VA. -/
  v1 : Nat
  /-- The unit's second source: V2, V3 or V4. -/
  v2 : Nat
  /-- V3: the addend of VFMA. -/
  v3 : Nat
  /-- VR: random operand, or the mask of a VSEL. -/
  vr : Nat
  /-- SS, the scalar register. -/
  ss : Nat
  /-- The auxiliary field X. -/
  x : BitVec 13
  /-- This is the last unit of the cascade that is not a pass. -/
  last : Bool
  /-- VLD stands in VA of this cascade. -/
  loaded : Bool
  /-- The cascade holds a VSEL, so VR is its mask (R177, R178). -/
  hasSel : Bool
  deriving DecidableEq, Repr

/-- The fields of the M slot (R132). -/
structure MArgs where
  acc : Nat
  asrc : Nat
  fa : Nat
  fb : Nat
  /-- LEN: count - 1. -/
  len : Nat
  epb : Nat
  ss : Nat
  vs : Nat
  deriving DecidableEq, Repr

/-- The fields of the K slot (R133). -/
structure KArgs where
  lr : Nat
  lc : Nat
  kf : Nat
  dir : Bool
  rmj : Bool
  ss : Nat
  deriving DecidableEq, Repr

/-- The fields of the C slot (R134). For CCOPYF, `follow` is the M slot's word (R135), else 0. -/
structure CArgs where
  tla : Nat
  ca : Nat
  tlb : Nat
  cb : Nat
  cw : Nat
  p1 : Nat
  p2 : Nat
  ss : Nat
  aux : Nat
  follow : Nat
  deriving DecidableEq, Repr

/-- The fields of the Y.M format (R136). -/
structure YArgs where
  tl : Nat
  c : Nat
  sx : Nat
  arr : Nat
  fn : Nat
  deriving DecidableEq, Repr

/-- What a host IOMMU grants: page size (16, 21 or 30 bits), package page address, read and write permission (R308). -/
structure AtsGrant where
  bits : Nat
  pa : Nat
  rd : Bool
  wr : Bool
  deriving DecidableEq, Repr

/-- The messages of class MG (R357). -/
inductive MgKind where
  /-- Discovery message over a link (R363). -/
  | discover (die link peer : Nat)
  /-- Monitor arm of a die's WAITA reaches the home (R265). -/
  | arm (acc : Nat)
  /-- The home's acknowledgement of an arm reaches the die. -/
  | armAck (acc : Nat)
  /-- Monitor clear (R266): die, row. -/
  | clear (die row : Nat)
  /-- Invalidation acknowledgement of a die (R311): the invalidation's id. -/
  | invAck (inv die : Nat)
  /-- A MIGRATE node passes to Clove (R327): the issuing die and the node. -/
  | clove (die node : Nat)
  deriving DecidableEq, Repr

/-- What the host reads or writes through a control port (R17, R280). -/
inductive HostAddr where
  /-- A register of the port's own window, by its offset. -/
  | window (offset : Nat)
  /-- A row of package memory, by its package address. -/
  | memory (addr : Nat)
  deriving DecidableEq, Repr

/-- What arrives from another package over the optical fabric (R366-R368). -/
inductive OptKind where
  /-- A row written at a package address (R367). -/
  | row (addr : Nat) (data : BitVec 512) (be : BitVec 64)
  /-- A read of a package address from another package. -/
  | read (addr : Nat) (src : Nat)
  /-- An atomic on the word at a package address from another package: operation, operands, and the package that waits for the old value. -/
  | atomic (addr fn : Nat) (a b : BitVec 64) (src : Option Nat)
  /-- A reduction into a row of this package from another package. -/
  | reduce (addr fn : Nat) (data : BitVec 512)
  /-- The response to an access of this package that another package answered. -/
  | response (acc : Nat) (data : BitVec 512)
  deriving DecidableEq, Repr

/-- Every operation and event of the part: one constructor per row of the opcode table. What only the outside of the part
starts, and the rows that name nothing, stand at the end. -/
inductive Instr where
  /-- ADD (R145). -/
  | add (sd sa sb : Nat)
  /-- SUB (R145). -/
  | sub (sd sa sb : Nat)
  /-- MUL (R145). -/
  | mul (sd sa sb : Nat)
  /-- MULHS (R145). -/
  | mulhs (sd sa sb : Nat)
  /-- MULHU (R145). -/
  | mulhu (sd sa sb : Nat)
  /-- DIVS (R145). -/
  | divs (sd sa sb : Nat)
  /-- DIVU (R145). -/
  | divu (sd sa sb : Nat)
  /-- REMS (R145). -/
  | rems (sd sa sb : Nat)
  /-- REMU (R145). -/
  | remu (sd sa sb : Nat)
  /-- AND (R145). -/
  | and (sd sa sb : Nat)
  /-- OR (R145). -/
  | or (sd sa sb : Nat)
  /-- XOR (R145). -/
  | xor (sd sa sb : Nat)
  /-- ANDN (R145). -/
  | andn (sd sa sb : Nat)
  /-- SHL (R145). -/
  | shl (sd sa sb : Nat)
  /-- SHR (R145). -/
  | shr (sd sa sb : Nat)
  /-- SAR (R145). -/
  | sar (sd sa sb : Nat)
  /-- ROL (R145). -/
  | rol (sd sa sb : Nat)
  /-- MIN (R145). -/
  | min (sd sa sb : Nat)
  /-- MAX (R145). -/
  | max (sd sa sb : Nat)
  /-- MINU (R145). -/
  | minu (sd sa sb : Nat)
  /-- MAXU (R145). -/
  | maxu (sd sa sb : Nat)
  /-- CLZ (R145). -/
  | clz (sd sa : Nat)
  /-- POPC (R145). -/
  | popc (sd sa : Nat)
  /-- SEL (R149). -/
  | sel (sd p sa sb : Nat)
  /-- ROTM (R150). -/
  | rotm (sd sa sb sc : Nat)
  /-- ADDI (R146). -/
  | addi (sd sa : Nat) (imm : BitVec 20)
  /-- ANDI (R146). -/
  | andi (sd sa : Nat) (imm : BitVec 20)
  /-- ORI (R146). -/
  | ori (sd sa : Nat) (imm : BitVec 20)
  /-- XORI (R146). -/
  | xori (sd sa : Nat) (imm : BitVec 20)
  /-- SHLI (R146). -/
  | shli (sd sa : Nat) (imm : BitVec 20)
  /-- SHRI (R146). -/
  | shri (sd sa : Nat) (imm : BitVec 20)
  /-- SARI (R146). -/
  | sari (sd sa : Nat) (imm : BitVec 20)
  /-- MOVK (R147). -/
  | movk (sd hw : Nat) (imm : BitVec 16)
  /-- EXT (R148). -/
  | ext (sd sa pos len : Nat)
  /-- EXTS (R148). -/
  | exts (sd sa pos len : Nat)
  /-- INS (R148). -/
  | ins (sd sa pos len : Nat)
  /-- CMP (R151). -/
  | cmp (pd : Nat) (cond : Nat) (sa sb : Nat)
  /-- CMPI (R151). -/
  | cmpi (pd : Nat) (cond : Nat) (sa : Nat) (imm : BitVec 18)
  /-- PAND (R152). -/
  | pand (pd pa pb : Nat) (na nb : Bool)
  /-- POR (R152). -/
  | por (pd pa pb : Nat) (na nb : Bool)
  /-- PXOR (R152). -/
  | pxor (pd pa pb : Nat) (na nb : Bool)
  /-- PANDN (R152). -/
  | pandn (pd pa pb : Nat) (na nb : Bool)
  /-- PSET (R152). -/
  | pset (pd : Nat) (val : Bool)
  /-- LDW (R165). -/
  | ldw (sx tl c w : Nat)
  /-- STW (R165). -/
  | stw (sx tl c w : Nat)
  /-- LDROW (R166). -/
  | ldrow (sx tl c w : Nat)
  /-- STROW (R166). -/
  | strow (sx tl c w : Nat)
  /-- CSRR (R167). -/
  | csrr (sx csr : Nat)
  /-- CSRW (R167). -/
  | csrw (sx csr : Nat)
  /-- CSRRP (R296). -/
  | csrrp (sx csr : Nat)
  /-- CSRWP (R296). -/
  | csrwp (sx csr : Nat)
  /-- BR (R155). -/
  | br (p : Nat) (t : Bool) (off : BitVec 27)
  /-- JMP (R156). -/
  | jmp (addr : Nat)
  /-- JMPR (R156). -/
  | jmpr (sa : Nat)
  /-- CALL (R157). -/
  | call (sd : Nat) (off : BitVec 26)
  /-- RET (R157). -/
  | ret (sa : Nat)
  /-- LOOP (R158). -/
  | loop (sa len : Nat)
  /-- LOOPQ (R158). -/
  | loopq (q len : Nat)
  /-- LOOPSWP (R158). -/
  | loopswp (sa len e : Nat)
  /-- SSEND (R160). -/
  | ssend (lc : Nat)
  /-- TRAP (R161). -/
  | trap (code : Nat)
  /-- RCBLD (R298). -/
  | rcbld (sd sa : Nat)
  /-- AREAD (R169). -/
  | aread (tl c : Nat)
  /-- AWRITE (R169). -/
  | awrite (tl c : Nat)
  /-- ARW (R170). -/
  | arw (tr cr tw cw : Nat)
  /-- ADIAG (R171). -/
  | adiag (tl c : Nat) (wr : Bool)
  /-- TLW (R172). -/
  | tlw (tl sx : Nat)
  /-- TLR (R172). -/
  | tlr (tl sx : Nat)
  /-- CSET (R173). -/
  | cset (c d sx : Nat)
  /-- CGET (R173). -/
  | cget (c d sx : Nat)
  /-- CINC (R173). -/
  | cinc (c d : Nat) (imm : BitVec 19)
  /-- CSTEP (R173). -/
  | cstep (c b : Nat)
  /-- XSOLVE (R174). -/
  | xsolve (xw vs pd : Nat)
  /-- XSOLVE_COMPLETE (R85). -/
  | xsolveComplete (die : Nat)
  /-- XLOAD (R175). -/
  | xload (xw tl c : Nat)
  /-- XSAVE (R175). -/
  | xsave (xw tl c : Nat)
  /-- VADD (R180). -/
  | vadd (a : VArgs)
  /-- VSUB (R180). -/
  | vsub (a : VArgs)
  /-- VMUL (R180). -/
  | vmul (a : VArgs)
  /-- VFMA (R180). -/
  | vfma (a : VArgs)
  /-- VMIN (R180). -/
  | vmin (a : VArgs)
  /-- VMAX (R180). -/
  | vmax (a : VArgs)
  /-- VABS (R180). -/
  | vabs (a : VArgs)
  /-- VNEG (R180). -/
  | vneg (a : VArgs)
  /-- VAND (R181). -/
  | vand (a : VArgs)
  /-- VOR (R181). -/
  | vor (a : VArgs)
  /-- VXOR (R181). -/
  | vxor (a : VArgs)
  /-- VNOT (R181). -/
  | vnot (a : VArgs)
  /-- VSHL (R181). -/
  | vshl (a : VArgs)
  /-- VSHR (R181). -/
  | vshr (a : VArgs)
  /-- VSAR (R181). -/
  | vsar (a : VArgs)
  /-- VSEL (R182). -/
  | vsel (a : VArgs)
  /-- VCMPEQ (R182). -/
  | vcmpeq (a : VArgs)
  /-- VCMPLT (R182). -/
  | vcmplt (a : VArgs)
  /-- VCMPLE (R182). -/
  | vcmple (a : VArgs)
  /-- VCMPNE (R182). -/
  | vcmpne (a : VArgs)
  /-- VMOV (R182). -/
  | vmov (a : VArgs)
  /-- VCVT (R183). -/
  | vcvt (a : VArgs)
  /-- VQUANT (R184). -/
  | vquant (a : VArgs)
  /-- VDEQ (R185). -/
  | vdeq (a : VArgs)
  /-- VEXP2 (R186). -/
  | vexp2 (a : VArgs)
  /-- VLOG2 (R186). -/
  | vlog2 (a : VArgs)
  /-- VRCP (R186). -/
  | vrcp (a : VArgs)
  /-- VRSQ (R186). -/
  | vrsq (a : VArgs)
  /-- VGELU (R186). -/
  | vgelu (a : VArgs)
  /-- VROTR (R187). -/
  | vrotr (a : VArgs)
  /-- VROTC (R187). -/
  | vrotc (a : VArgs)
  /-- VBCR (R187). -/
  | vbcr (a : VArgs)
  /-- VBCC (R187). -/
  | vbcc (a : VArgs)
  /-- VREDR (R188). -/
  | vredr (a : VArgs)
  /-- VREDC (R188). -/
  | vredc (a : VArgs)
  /-- VSCANR (R188). -/
  | vscanr (a : VArgs)
  /-- VSCANC (R188). -/
  | vscanc (a : VArgs)
  /-- VLD (R189). -/
  | vld (a : VArgs)
  /-- VST (R190). -/
  | vst (a : VArgs)
  /-- VMOVS (R191). -/
  | vmovs (a : VArgs)
  /-- VSPLAT (R191). -/
  | vsplat (a : VArgs)
  /-- VIOTA (R191). -/
  | viota (a : VArgs)
  /-- VRAND (R192). -/
  | vrand (a : VArgs)
  /-- VPACK (R193). -/
  | vpack (a : VArgs)
  /-- VUNPK (R193). -/
  | vunpk (a : VArgs)
  /-- MLOADB (R200). -/
  | mloadb (a : MArgs)
  /-- MMA (R201). -/
  | mma (a : MArgs)
  /-- MMAG (R202). -/
  | mmag (a : MArgs)
  /-- MMAC (R203). -/
  | mmac (a : MArgs)
  /-- MRANK (R204). -/
  | mrank (a : MArgs)
  /-- MZERO (R205). -/
  | mzero (a : MArgs)
  /-- MEPI (R208). -/
  | mepi (a : MArgs)
  /-- MEPI_LD (R209). -/
  | mepiLd (a : MArgs)
  /-- MDRAIN (R208). -/
  | mdrain (a : MArgs)
  /-- MSHAPE (R211). -/
  | mshape (a : MArgs)
  /-- MSTAT (R212). -/
  | mstat (a : MArgs)
  /-- MTEST (R213). -/
  | mtest (a : MArgs)
  /-- SELFTEST_CNT (R214). -/
  | selftestCnt (die : Nat)
  /-- FOLLOW_ON_START (R216). -/
  | followOnStart (die : Nat)
  /-- FOLLOW_ON_RETIRE (R216). -/
  | followOnRetire (die : Nat)
  /-- KLOAD (R226). -/
  | kload (a : KArgs)
  /-- KSORT (R228). -/
  | ksort (a : KArgs)
  /-- KSTEP (R229). -/
  | kstep (a : KArgs)
  /-- KMERGE (R228). -/
  | kmerge (a : KArgs)
  /-- KTOPK (R228). -/
  | ktopk (a : KArgs)
  /-- KSTORE (R227). -/
  | kstore (a : KArgs)
  /-- KSTATE_RD (R230). -/
  | kstateRd (a : KArgs)
  /-- KSTATE_WR (R230). -/
  | kstateWr (a : KArgs)
  /-- CCOPY (R240). -/
  | ccopy (a : CArgs)
  /-- CCOPYF (R241). -/
  | ccopyf (a : CArgs)
  /-- CFILL (R240). -/
  | cfill (a : CArgs)
  /-- CGATHER (R242). -/
  | cgather (a : CArgs)
  /-- CSCATTER (R244). -/
  | cscatter (a : CArgs)
  /-- CDISPATCH (R245). -/
  | cdispatch (a : CArgs)
  /-- CCOMBINE (R246). -/
  | ccombine (a : CArgs)
  /-- CWAIT (R247). -/
  | cwait (a : CArgs)
  /-- CSTATUS (R248). -/
  | cstatus (a : CArgs)
  /-- MIGRATE (R303). -/
  | migrate (a : CArgs)
  /-- NODE_LAUNCH (R232). -/
  | nodeLaunch (die node : Nat)
  /-- COPY_ROW_ARRIVAL (R236). -/
  | copyRowArrival (acc : Nat)
  /-- NODE_RETIRE (R236). -/
  | nodeRetire (die node : Nat)
  /-- LDREM (R253). -/
  | ldrem (a : YArgs)
  /-- STREM (R253). -/
  | strem (a : YArgs)
  /-- ATOM (R254). -/
  | atom (a : YArgs)
  /-- SCRMW (R254). -/
  | scrmw (a : YArgs)
  /-- RED (R255). -/
  | red (a : YArgs)
  /-- SCLD (R257). -/
  | scld (a : YArgs)
  /-- SCST (R257). -/
  | scst (a : YArgs)
  /-- WHEEL_POSITION_ISSUE (R109). -/
  | wheelPositionIssue (die : Nat)
  /-- DRAIN (R103). -/
  | drain (q sx : Nat)
  /-- FENCED (R104). -/
  | fenced (q sx : Nat)
  /-- FENCEP (R99). -/
  | fencep (sm dm : Nat)
  /-- BINIT (R260). -/
  | binit (b sx pd sd : Nat)
  /-- BARR (R260). -/
  | barr (b sx pd sd : Nat)
  /-- BWAIT (R261). -/
  | bwait (b sx pd sd : Nat)
  /-- BWAIT_TIMEOUT (R261). -/
  | bwaitTimeout (die : Nat)
  /-- SEND (R263). -/
  | send (a : YArgs)
  /-- RECV (R263). -/
  | recv (a : YArgs)
  /-- WAITA (R265). -/
  | waita (tl c sx pd : Nat)
  /-- WAITA_TIMEOUT (R265). -/
  | waitaTimeout (die : Nat)
  /-- MONITOR_TRIGGER (R265). -/
  | monitorTrigger (die mon : Nat)
  /-- MONCLR (R266). -/
  | monclr (a : YArgs)
  /-- CQPUSH (R267). -/
  | cqpush (q sx : Nat)
  /-- CQPOP (R267). -/
  | cqpop (q sx : Nat)
  /-- OSEND (R268). -/
  | osend (a : YArgs)
  /-- OSTAT (R269). -/
  | ostat (q sx : Nat)
  /-- ATCINV (R300). -/
  | atcinv (q sx : Nat)
  /-- PLREAD (R301). -/
  | plread (a : YArgs)
  /-- PLWRITE (R301). -/
  | plwrite (a : YArgs)
  /-- FWAIT (R305). -/
  | fwait (q sx : Nat)
  /-- FWAIT_TIMEOUT (R305). -/
  | fwaitTimeout (die : Nat)
  /-- FIRMWARE_EVENT (R305). -/
  | firmwareEvent (bit : Nat)
  /-- MMLD (R302). -/
  | mmld (a : YArgs)
  /-- MMST (R302). -/
  | mmst (a : YArgs)
  /-- SLOGREPLAY (R304). -/
  | slogreplay (q sx : Nat)
  /-- LANDING_ARRIVAL (R41). -/
  | landingArrival (acc : Nat)
  /-- NAMED_CYCLE_HOLD (R42). -/
  | namedCycleHold (die : Nat)
  /-- PACKAGE_BARRIER_COMPLETE (R36). -/
  | packageBarrierComplete (launch : Nat)
  /-- COMM_PHASE_END (R37). -/
  | commPhaseEnd (die : Nat)
  /-- RED_WINDOW_EXPIRE (R256). -/
  | redWindowExpire (die entry : Nat)
  /-- MSG_RD (R357). -/
  | msgRd (acc : Nat)
  /-- MSG_WR (R357). -/
  | msgWr (acc : Nat)
  /-- MSG_AT (R357). -/
  | msgAt (acc : Nat)
  /-- MSG_RS (R357). -/
  | msgRs (acc : Nat)
  /-- MSG_XF (R357). -/
  | msgXf (acc : Nat)
  /-- MSG_MG (R357). -/
  | msgMg (kind : MgKind)
  /-- ROUTE_NOTICE (R321). -/
  | routeNotice (acc home : Nat)
  /-- WALKER_RESOLVE (R321). -/
  | walkerResolve (acc : Nat)
  /-- LAUNCH_PLACE (R290). -/
  | launchPlace (launch : Nat)
  /-- COMPLETION_WORD (R291). -/
  | completionWord (launch : Nat)
  /-- SLICE_END (R292). -/
  | sliceEnd (launch : Nat)
  /-- PREEMPTION_POINT (R50). -/
  | preemptionPoint (die : Nat)
  /-- CONTEXT_RESTORE (R295). -/
  | contextRestore (launch : Nat)
  /-- HOLD_TIMEOUT (R348). -/
  | holdTimeout (die : Nat)
  /-- SHADOW_ENTRY (R343). -/
  | shadowEntry (die : Nat)
  /-- SIDE_LOG_REPLAY (R346). -/
  | sideLogReplay (die unit : Nat)
  /-- ATS_RESPONSE (R309). -/
  | atsResponse (die vpage : Nat) (grant : Option AtsGrant)
  /-- PAGE_REQUEST_GRANT (R344). -/
  | pageRequestGrant (die vpage : Nat) (granted : Bool)
  /-- PACKAGE_CSR_UPDATE (R279). -/
  | packageCsrUpdate (die csr : Nat) (val : BitVec 64)
  /-- DIRECTORY_HEADER_WRITE (R317). -/
  | directoryHeaderWrite (die : Nat)
  /-- DIRECTORY_ROOT_WRITE (R318). -/
  | directoryRootWrite (die index : Nat)
  /-- SWEEPER_VISIT (R325). -/
  | sweeperVisit (die : Nat)
  /-- HEAT_WRITEBACK (R322). -/
  | heatWriteback (die leaf : Nat)
  /-- CLOVE_START (R327). -/
  | cloveStart (die migration : Nat)
  /-- MIGRATION_ROUND_END (R329). -/
  | migrationRoundEnd (die migration : Nat)
  /-- FREEZE_FINAL_COPY (R330). -/
  | freezeFinalCopy (die migration : Nat)
  /-- MIGRATION_COMMIT (R331). -/
  | migrationCommit (die migration : Nat)
  /-- FREEZE_TIMEOUT (R330). -/
  | freezeTimeout (die migration : Nat)
  /-- DIE_RESET (R351). -/
  | dieReset (die : Nat)
  /-- ATTESTATION_REPORT (R390). -/
  | attestationReport (addr : Nat)
  /-- OPTICAL_SLOT_OPEN (R367). -/
  | opticalSlotOpen (entry : Nat)
  /-- OPTICAL_SLOT_CLOSE (R367). -/
  | opticalSlotClose (entry : Nat)
  /-- ROUTER_ENTRY_WRITE (R362). -/
  | routerEntryWrite (die entry : Nat) (val : BitVec 64)
  /-- SLOT_TABLE_WRITE (R366). -/
  | slotTableWrite (entry : Nat) (val : BitVec 64)
  /-- LEVEL_CHANGE_APPLY (R374). -/
  | levelChangeApply (die stack : Nat)
  /-- POSITION_WITHHOLD (R375). -/
  | positionWithhold (die stack : Nat)
  /-- POSITION_RETURN (R375). -/
  | positionReturn (die stack : Nat)
  /-- LIVE_REPAIR_COMPLETE (R384). -/
  | liveRepairComplete (die stack pc lane : Nat)
  /-- PCSEL_WRITE (R379). -/
  | pcselWrite (die stack : Nat) (val : BitVec 64)
  /-- PATCTL_GO (R398). -/
  | patctlGo (die stack : Nat) (val : BitVec 64)
  /-- PATTERN_RUN_DONE (R380). -/
  | patternRunDone (die stack : Nat)
  /-- EYECTL_GO (R398). -/
  | eyectlGo (die stack : Nat) (val : BitVec 64)
  /-- EYE_CAPTURE_DONE (R381). -/
  | eyeCaptureDone (die stack : Nat)
  /-- REPAIR_WRITE (R382). -/
  | repairWrite (die stack : Nat) (val : BitVec 64)
  /-- POWER_WINDOW_END (R393). -/
  | powerWindowEnd (die : Nat)
  /-- GOVERNOR_HOLD_END (R393). -/
  | governorHoldEnd (die : Nat)
  /-- REGISTER_WRITE (R7). -/
  | registerWrite (die off : Nat) (val : BitVec 64)
  /-- JUNCTION_CATTRIP (R393). -/
  | junctionCattrip (die : Nat)
  /-- START (R288). -/
  | start (port : Nat) (sv : BitVec 512)
  /-- SV_DROP (R17). -/
  | svDrop (die port : Nat)
  /-- HOST_MEMORY_ACCESS (R17, R280): to package memory, or to the registers of the port's own window. -/
  | hostMemoryAccess (port : Nat) (addr : HostAddr) (write : Option (BitVec 512 × BitVec 64))
  /-- SEM_READ (R280). -/
  | semRead (reader : Nat)
  /-- SEM_WRITE (R280). -/
  | semWrite (writer : Nat) (val : BitVec 64)
  /-- RCBSYNC (R280). -/
  | rcbsync (port : Nat) (region : BitVec 16)
  /-- CONTROL_PORT_LINK_RESET (R280). -/
  | controlPortLinkReset (port : Nat)
  /-- ATTREQ (R390). -/
  | attreq (port addr : Nat)
  /-- RSTCTL_DGO (R391). -/
  | rstctlDgo (port die : Nat)
  /-- RSTCTL_PGO (R391). -/
  | rstctlPgo (port : Nat)
  /-- LINK_DOWN (R363). -/
  | linkDown (die link : Nat)
  /-- FLIT_RECEIVE (R356). -/
  | flitReceive (die link : Nat) (flit : BitVec 2048)
  /-- HBM_CRC_RETRY (R383). -/
  | hbmCrcRetry (acc lane : Nat)
  /-- OPTICAL_RECEIVE (R367). -/
  | opticalReceive (kind : OptKind)
  /-- DEBUGGER_HALT (R312). -/
  | debuggerHalt (die : Nat) (on : Bool)
  /-- POWER_GATING (R312). -/
  | powerGating (die : Nat) (on : Bool)
  /-- ATS_INVALIDATION (R311). -/
  | atsInvalidation (va size : Nat)
  /-- WHEEL_MARKER (R111). -/
  | wheelMarker (position : Nat)
  /-- NOP (R162). -/
  | nop
  /-- LBRK (R159). -/
  | lbrk
  /-- TRET (R297). -/
  | tret
  /-- DISCOVER (R363). -/
  | discover
  /-- PACKAGE_RESET (R391). -/
  | packageReset
  /-- BRINGUP (R386). -/
  | bringup
  /-- OPTICAL_EPOCH (R366). -/
  | opticalEpoch
  /-- TEMP_SAMPLE (R374). -/
  | tempSample
  deriving DecidableEq, Repr

end Sys2Proof
end

