-- ==== Sys2Proof/WellFormed.lean ====
section
/-!
DEFINITION. Which terms of the syntax are instructions the part can hold: field widths, operand ranges (R123, R126) and
fields an operation does not use (R122).
-/

namespace Sys2Proof

/-- A key format Mace accepts (R74, R133). -/
def keyFormat (f : Nat) : Bool := (1 ≤ f && f ≤ 8) || f == 10

/-- A format VCVT accepts (R183). -/
def cvtFormat (f : Nat) : Bool := (1 ≤ f && f ≤ 5) || f == 7 || f == 8 || f == 10

/-- The numbers of the user CSRs (R128). -/
def userCsr (n : Nat) : Bool := n ≤ 9

/-- The CSR numbers CSRRP and CSRWP reach (R278, R296). -/
def anyCsr (n : Nat) : Bool :=
  userCsr n || (0x100 ≤ n && n ≤ 0x103) || n == 0x108 || n == 0x10A || n == 0x10C || n == 0x10D ||
    (0x200 ≤ n && n ≤ 0x2FF)

/-- Bit field of X of a V operation. -/
def VArgs.xf (a : VArgs) (lo w : Nat) : Nat := a.x.toNat / 2 ^ lo % 2 ^ w

/-- Widths of the V fields (R130). -/
def VArgs.fits (a : VArgs) : Bool :=
  a.unit < 3 && a.vd < 2048 && a.v1 < 2048 && a.v2 < 2048 && a.v3 < 2048 && a.vr < 2048 && a.ss < 64
def MArgs.fits (a : MArgs) : Bool :=
  a.acc < 4 && a.asrc < 4 && a.fa < 16 && a.fb < 16 && a.len < 256 && a.epb < 64 && a.ss < 64 && a.vs < 2048
def KArgs.fits (a : KArgs) : Bool := a.lr < 8 && a.lc < 8 && a.kf < 16 && a.ss < 64
def CArgs.fits (a : CArgs) : Bool :=
  a.tla < 512 && a.ca < 32 && a.tlb < 512 && a.cb < 32 && a.cw < 32 && a.p1 < 16 && a.p2 < 16 && a.ss < 64 &&
    a.aux < 8 && a.follow < 2 ^ 56
def YArgs.fits (a : YArgs) : Bool := a.tl < 512 && a.c < 32 && a.sx < 64 && a.arr < 2048 && a.fn < 8

/-- Rules of a product command's fields that are ranges (R197, R198, R201, R202); `fo` for a follow-on command. -/
def productRange (fo : Bool) (lim : Bool) (regs : Nat) (a : MArgs) : Bool :=
  let sca := a.epb % 2 == 1
  (2 ≤ a.fa && a.fa ≤ 9) && (!sca || (4 ≤ a.fa && a.fa ≤ 6)) && (sca || a.fa != 6) &&
    (fo || !lim || a.len ≤ 15) && (regs == 0 || !sca || a.vs + (a.len + 16) / 16 + regs ≤ 2049)

/-- The slot an instruction stands in; S-class instructions are given S0. None for the part's own events. -/
def Instr.slot : Instr → Option Slot
  | .nop => some .s0
  | .add _ _ _ => some .s0
  | .sub _ _ _ => some .s0
  | .mul _ _ _ => some .s0
  | .mulhs _ _ _ => some .s0
  | .mulhu _ _ _ => some .s0
  | .divs _ _ _ => some .s0
  | .divu _ _ _ => some .s0
  | .rems _ _ _ => some .s0
  | .remu _ _ _ => some .s0
  | .and _ _ _ => some .s0
  | .or _ _ _ => some .s0
  | .xor _ _ _ => some .s0
  | .andn _ _ _ => some .s0
  | .shl _ _ _ => some .s0
  | .shr _ _ _ => some .s0
  | .sar _ _ _ => some .s0
  | .rol _ _ _ => some .s0
  | .min _ _ _ => some .s0
  | .max _ _ _ => some .s0
  | .minu _ _ _ => some .s0
  | .maxu _ _ _ => some .s0
  | .clz _ _ => some .s0
  | .popc _ _ => some .s0
  | .sel _ _ _ _ => some .s0
  | .rotm _ _ _ _ => some .s0
  | .addi _ _ _ => some .s0
  | .andi _ _ _ => some .s0
  | .ori _ _ _ => some .s0
  | .xori _ _ _ => some .s0
  | .shli _ _ _ => some .s0
  | .shri _ _ _ => some .s0
  | .sari _ _ _ => some .s0
  | .movk _ _ _ => some .s0
  | .ext _ _ _ _ => some .s0
  | .exts _ _ _ _ => some .s0
  | .ins _ _ _ _ => some .s0
  | .cmp _ _ _ _ => some .s0
  | .cmpi _ _ _ _ => some .s0
  | .pand _ _ _ _ _ => some .s0
  | .por _ _ _ _ _ => some .s0
  | .pxor _ _ _ _ _ => some .s0
  | .pandn _ _ _ _ _ => some .s0
  | .pset _ _ => some .s0
  | .ldw _ _ _ _ => some .s0
  | .stw _ _ _ _ => some .s0
  | .ldrow _ _ _ _ => some .s0
  | .strow _ _ _ _ => some .s0
  | .csrr _ _ => some .s0
  | .csrw _ _ => some .s0
  | .csrrp _ _ => some .s0
  | .csrwp _ _ => some .s0
  | .br _ _ _ => some .s0
  | .jmp _ => some .s0
  | .jmpr _ => some .s0
  | .call _ _ => some .s0
  | .ret _ => some .s0
  | .loop _ _ => some .s0
  | .loopq _ _ => some .s0
  | .loopswp _ _ _ => some .s0
  | .lbrk => some .s0
  | .ssend _ => some .s0
  | .trap _ => some .s0
  | .tret => some .s0
  | .rcbld _ _ => some .s0
  | .aread _ _ => some .a
  | .awrite _ _ => some .a
  | .arw _ _ _ _ => some .a
  | .adiag _ _ _ => some .a
  | .tlw _ _ => some .a
  | .tlr _ _ => some .a
  | .cset _ _ _ => some .a
  | .cget _ _ _ => some .a
  | .cinc _ _ _ => some .a
  | .cstep _ _ => some .a
  | .xsolve _ _ _ => some .a
  | .xsolveComplete _ => none
  | .xload _ _ _ => some .a
  | .xsave _ _ _ => some .a
  | .vadd _ => some .v
  | .vsub _ => some .v
  | .vmul _ => some .v
  | .vfma _ => some .v
  | .vmin _ => some .v
  | .vmax _ => some .v
  | .vabs _ => some .v
  | .vneg _ => some .v
  | .vand _ => some .v
  | .vor _ => some .v
  | .vxor _ => some .v
  | .vnot _ => some .v
  | .vshl _ => some .v
  | .vshr _ => some .v
  | .vsar _ => some .v
  | .vsel _ => some .v
  | .vcmpeq _ => some .v
  | .vcmplt _ => some .v
  | .vcmple _ => some .v
  | .vcmpne _ => some .v
  | .vmov _ => some .v
  | .vcvt _ => some .v
  | .vquant _ => some .v
  | .vdeq _ => some .v
  | .vexp2 _ => some .v
  | .vlog2 _ => some .v
  | .vrcp _ => some .v
  | .vrsq _ => some .v
  | .vgelu _ => some .v
  | .vrotr _ => some .v
  | .vrotc _ => some .v
  | .vbcr _ => some .v
  | .vbcc _ => some .v
  | .vredr _ => some .v
  | .vredc _ => some .v
  | .vscanr _ => some .v
  | .vscanc _ => some .v
  | .vld _ => some .v
  | .vst _ => some .v
  | .vmovs _ => some .v
  | .vsplat _ => some .v
  | .viota _ => some .v
  | .vrand _ => some .v
  | .vpack _ => some .v
  | .vunpk _ => some .v
  | .mloadb _ => some .m
  | .mma _ => some .m
  | .mmag _ => some .m
  | .mmac _ => some .m
  | .mrank _ => some .m
  | .mzero _ => some .m
  | .mepi _ => some .m
  | .mepiLd _ => some .m
  | .mdrain _ => some .m
  | .mshape _ => some .m
  | .mstat _ => some .m
  | .mtest _ => some .m
  | .selftestCnt _ => none
  | .followOnStart _ => none
  | .followOnRetire _ => none
  | .kload _ => some .k
  | .ksort _ => some .k
  | .kstep _ => some .k
  | .kmerge _ => some .k
  | .ktopk _ => some .k
  | .kstore _ => some .k
  | .kstateRd _ => some .k
  | .kstateWr _ => some .k
  | .ccopy _ => some .c
  | .ccopyf _ => some .c
  | .cfill _ => some .c
  | .cgather _ => some .c
  | .cscatter _ => some .c
  | .cdispatch _ => some .c
  | .ccombine _ => some .c
  | .cwait _ => some .c
  | .cstatus _ => some .c
  | .migrate _ => some .c
  | .nodeLaunch _ _ => none
  | .copyRowArrival _ => none
  | .nodeRetire _ _ => none
  | .ldrem _ => some .y
  | .strem _ => some .y
  | .atom _ => some .y
  | .scrmw _ => some .y
  | .red _ => some .y
  | .scld _ => some .y
  | .scst _ => some .y
  | .wheelPositionIssue _ => none
  | .drain _ _ => some .y
  | .fenced _ _ => some .y
  | .fencep _ _ => some .y
  | .binit _ _ _ _ => some .y
  | .barr _ _ _ _ => some .y
  | .bwait _ _ _ _ => some .y
  | .bwaitTimeout _ => none
  | .send _ => some .y
  | .recv _ => some .y
  | .waita _ _ _ _ => some .y
  | .waitaTimeout _ => none
  | .monitorTrigger _ _ => none
  | .monclr _ => some .y
  | .cqpush _ _ => some .y
  | .cqpop _ _ => some .y
  | .osend _ => some .y
  | .ostat _ _ => some .y
  | .atcinv _ _ => some .y
  | .plread _ => some .y
  | .plwrite _ => some .y
  | .fwait _ _ => some .y
  | .fwaitTimeout _ => none
  | .firmwareEvent _ => none
  | .mmld _ => some .y
  | .mmst _ => some .y
  | .slogreplay _ _ => some .y
  | .landingArrival _ => none
  | .namedCycleHold _ => none
  | .packageBarrierComplete _ => none
  | .commPhaseEnd _ => none
  | .redWindowExpire _ _ => none
  | .flitReceive _ _ _ => none
  | .msgRd _ => none
  | .msgWr _ => none
  | .msgAt _ => none
  | .msgRs _ => none
  | .msgXf _ => none
  | .msgMg _ => none
  | .routeNotice _ _ => none
  | .discover => none
  | .walkerResolve _ => none
  | .start _ _ => none
  | .svDrop _ _ => none
  | .launchPlace _ => none
  | .completionWord _ => none
  | .sliceEnd _ => none
  | .preemptionPoint _ => none
  | .contextRestore _ => none
  | .holdTimeout _ => none
  | .shadowEntry _ => none
  | .sideLogReplay _ _ => none
  | .atsResponse _ _ _ => none
  | .atsInvalidation _ _ => none
  | .pageRequestGrant _ _ _ => none
  | .hostMemoryAccess _ _ _ => none
  | .semRead _ => none
  | .semWrite _ _ => none
  | .rcbsync _ _ => none
  | .controlPortLinkReset _ => none
  | .packageCsrUpdate _ _ _ => none
  | .directoryHeaderWrite _ => none
  | .directoryRootWrite _ _ => none
  | .sweeperVisit _ => none
  | .heatWriteback _ _ => none
  | .cloveStart _ _ => none
  | .migrationRoundEnd _ _ => none
  | .freezeFinalCopy _ _ => none
  | .migrationCommit _ _ => none
  | .freezeTimeout _ _ => none
  | .dieReset _ => none
  | .packageReset => none
  | .rstctlDgo _ _ => none
  | .rstctlPgo _ => none
  | .bringup => none
  | .attreq _ _ => none
  | .attestationReport _ => none
  | .linkDown _ _ => none
  | .opticalEpoch => none
  | .opticalSlotOpen _ => none
  | .opticalSlotClose _ => none
  | .routerEntryWrite _ _ _ => none
  | .slotTableWrite _ _ => none
  | .tempSample => none
  | .levelChangeApply _ _ => none
  | .positionWithhold _ _ => none
  | .positionReturn _ _ => none
  | .hbmCrcRetry _ _ => none
  | .liveRepairComplete _ _ _ _ => none
  | .pcselWrite _ _ _ => none
  | .patctlGo _ _ _ => none
  | .patternRunDone _ _ => none
  | .eyectlGo _ _ _ => none
  | .eyeCaptureDone _ _ => none
  | .repairWrite _ _ _ => none
  | .powerWindowEnd _ => none
  | .governorHoldEnd _ => none
  | .registerWrite _ _ _ => none
  | .wheelMarker _ => none
  | .opticalReceive _ => none
  | .junctionCattrip _ => none
  | .debuggerHalt _ _ => none
  | .powerGating _ _ => none

/-- Every operand fits its encoded field (R126, R129, R130, R132-R134, R136); an event names dies 0-11 (R4). -/
def Instr.fits : Instr → Bool
  | .nop => true
  | .add sd sa sb => sd < 64 && sa < 64 && sb < 64
  | .sub sd sa sb => sd < 64 && sa < 64 && sb < 64
  | .mul sd sa sb => sd < 64 && sa < 64 && sb < 64
  | .mulhs sd sa sb => sd < 64 && sa < 64 && sb < 64
  | .mulhu sd sa sb => sd < 64 && sa < 64 && sb < 64
  | .divs sd sa sb => sd < 64 && sa < 64 && sb < 64
  | .divu sd sa sb => sd < 64 && sa < 64 && sb < 64
  | .rems sd sa sb => sd < 64 && sa < 64 && sb < 64
  | .remu sd sa sb => sd < 64 && sa < 64 && sb < 64
  | .and sd sa sb => sd < 64 && sa < 64 && sb < 64
  | .or sd sa sb => sd < 64 && sa < 64 && sb < 64
  | .xor sd sa sb => sd < 64 && sa < 64 && sb < 64
  | .andn sd sa sb => sd < 64 && sa < 64 && sb < 64
  | .shl sd sa sb => sd < 64 && sa < 64 && sb < 64
  | .shr sd sa sb => sd < 64 && sa < 64 && sb < 64
  | .sar sd sa sb => sd < 64 && sa < 64 && sb < 64
  | .rol sd sa sb => sd < 64 && sa < 64 && sb < 64
  | .min sd sa sb => sd < 64 && sa < 64 && sb < 64
  | .max sd sa sb => sd < 64 && sa < 64 && sb < 64
  | .minu sd sa sb => sd < 64 && sa < 64 && sb < 64
  | .maxu sd sa sb => sd < 64 && sa < 64 && sb < 64
  | .clz sd sa => sd < 64 && sa < 64
  | .popc sd sa => sd < 64 && sa < 64
  | .sel sd p sa sb => sd < 64 && p < 16 && sa < 64 && sb < 64
  | .rotm sd sa sb sc => sd < 64 && sa < 64 && sb < 64 && sc < 64
  | .addi sd sa _ => sd < 64 && sa < 64
  | .andi sd sa _ => sd < 64 && sa < 64
  | .ori sd sa _ => sd < 64 && sa < 64
  | .xori sd sa _ => sd < 64 && sa < 64
  | .shli sd sa _ => sd < 64 && sa < 64
  | .shri sd sa _ => sd < 64 && sa < 64
  | .sari sd sa _ => sd < 64 && sa < 64
  | .movk sd hw _ => sd < 64 && hw < 4
  | .ext sd sa pos len => sd < 64 && sa < 64 && pos < 64 && (1 ≤ len && len ≤ 64)
  | .exts sd sa pos len => sd < 64 && sa < 64 && pos < 64 && (1 ≤ len && len ≤ 64)
  | .ins sd sa pos len => sd < 64 && sa < 64 && pos < 64 && (1 ≤ len && len ≤ 64)
  | .cmp pd cond sa sb => pd < 16 && cond < 16 && sa < 64 && sb < 64
  | .cmpi pd cond sa _ => pd < 16 && cond < 16 && sa < 64
  | .pand pd pa pb _ _ => pd < 16 && pa < 16 && pb < 16
  | .por pd pa pb _ _ => pd < 16 && pa < 16 && pb < 16
  | .pxor pd pa pb _ _ => pd < 16 && pa < 16 && pb < 16
  | .pandn pd pa pb _ _ => pd < 16 && pa < 16 && pb < 16
  | .pset pd _ => pd < 16
  | .ldw sx tl c w => sx < 64 && tl < 512 && c < 32 && w < 8
  | .stw sx tl c w => sx < 64 && tl < 512 && c < 32 && w < 8
  | .ldrow sx tl c w => sx < 64 && tl < 512 && c < 32 && w < 8
  | .strow sx tl c w => sx < 64 && tl < 512 && c < 32 && w < 8
  | .csrr sx csr => sx < 64 && csr < 4096
  | .csrw sx csr => sx < 64 && csr < 4096
  | .csrrp sx csr => sx < 64 && csr < 4096
  | .csrwp sx csr => sx < 64 && csr < 4096
  | .br p _ _ => p < 16
  | .jmp addr => addr < 4294967296
  | .jmpr sa => sa < 64
  | .call sd _ => sd < 64
  | .ret sa => sa < 64
  | .loop sa len => sa < 64 && (1 ≤ len && len ≤ 65536)
  | .loopq q len => q < 4 && (1 ≤ len && len ≤ 65536)
  | .loopswp sa len e => sa < 64 && (1 ≤ len && len ≤ 65536) && e < 8
  | .lbrk => true
  | .ssend lc => lc < 65536
  | .trap code => code < 256
  | .tret => true
  | .rcbld sd sa => sd < 64 && sa < 64
  | .aread tl c => tl < 512 && c < 32
  | .awrite tl c => tl < 512 && c < 32
  | .arw tr cr tw cw => tr < 512 && cr < 32 && tw < 512 && cw < 32
  | .adiag tl c _ => tl < 512 && c < 32
  | .tlw tl sx => tl < 512 && sx < 64
  | .tlr tl sx => tl < 512 && sx < 64
  | .cset c d sx => c < 32 && d < 16 && sx < 64
  | .cget c d sx => c < 32 && d < 16 && sx < 64
  | .cinc c d _ => c < 32 && d < 16
  | .cstep c b => c < 32 && b < 32
  | .xsolve xw vs pd => xw < 4096 && vs < 2048 && pd < 16
  | .xload xw tl c => xw < 4096 && tl < 512 && c < 32
  | .xsave xw tl c => xw < 4096 && tl < 512 && c < 32
  | .vadd a => a.fits
  | .vsub a => a.fits
  | .vmul a => a.fits
  | .vfma a => a.fits
  | .vmin a => a.fits
  | .vmax a => a.fits
  | .vabs a => a.fits
  | .vneg a => a.fits
  | .vand a => a.fits
  | .vor a => a.fits
  | .vxor a => a.fits
  | .vnot a => a.fits
  | .vshl a => a.fits
  | .vshr a => a.fits
  | .vsar a => a.fits
  | .vsel a => a.fits
  | .vcmpeq a => a.fits
  | .vcmplt a => a.fits
  | .vcmple a => a.fits
  | .vcmpne a => a.fits
  | .vmov a => a.fits
  | .vcvt a => a.fits
  | .vquant a => a.fits
  | .vdeq a => a.fits
  | .vexp2 a => a.fits
  | .vlog2 a => a.fits
  | .vrcp a => a.fits
  | .vrsq a => a.fits
  | .vgelu a => a.fits
  | .vrotr a => a.fits
  | .vrotc a => a.fits
  | .vbcr a => a.fits
  | .vbcc a => a.fits
  | .vredr a => a.fits
  | .vredc a => a.fits
  | .vscanr a => a.fits
  | .vscanc a => a.fits
  | .vld a => a.fits
  | .vst a => a.fits
  | .vmovs a => a.fits
  | .vsplat a => a.fits
  | .viota a => a.fits
  | .vrand a => a.fits
  | .vpack a => a.fits
  | .vunpk a => a.fits
  | .mloadb a => a.fits
  | .mma a => a.fits
  | .mmag a => a.fits
  | .mmac a => a.fits
  | .mrank a => a.fits
  | .mzero a => a.fits
  | .mepi a => a.fits
  | .mepiLd a => a.fits
  | .mdrain a => a.fits
  | .mshape a => a.fits
  | .mstat a => a.fits
  | .mtest a => a.fits
  | .kload a => a.fits
  | .ksort a => a.fits
  | .kstep a => a.fits
  | .kmerge a => a.fits
  | .ktopk a => a.fits
  | .kstore a => a.fits
  | .kstateRd a => a.fits
  | .kstateWr a => a.fits
  | .ccopy a => a.fits
  | .ccopyf a => a.fits
  | .cfill a => a.fits
  | .cgather a => a.fits
  | .cscatter a => a.fits
  | .cdispatch a => a.fits
  | .ccombine a => a.fits
  | .cwait a => a.fits
  | .cstatus a => a.fits
  | .migrate a => a.fits
  | .ldrem a => a.fits
  | .strem a => a.fits
  | .atom a => a.fits
  | .scrmw a => a.fits
  | .red a => a.fits
  | .scld a => a.fits
  | .scst a => a.fits
  | .drain q sx => q < 4 && sx < 64
  | .fenced q sx => q < 4 && sx < 64
  | .fencep sm dm => sm < 128 && dm < 128
  | .binit b sx pd sd => b < 16 && sx < 64 && pd < 16 && sd < 64
  | .barr b sx pd sd => b < 16 && sx < 64 && pd < 16 && sd < 64
  | .bwait b sx pd sd => b < 16 && sx < 64 && pd < 16 && sd < 64
  | .send a => a.fits
  | .recv a => a.fits
  | .waita tl c sx pd => tl < 512 && c < 32 && sx < 64 && pd < 16
  | .monclr a => a.fits
  | .cqpush q sx => q < 4 && sx < 64
  | .cqpop q sx => q < 4 && sx < 64
  | .osend a => a.fits
  | .ostat q sx => q < 4 && sx < 64
  | .atcinv q sx => q < 4 && sx < 64
  | .plread a => a.fits
  | .plwrite a => a.fits
  | .fwait q sx => q < 4 && sx < 64
  | .mmld a => a.fits
  | .mmst a => a.fits
  | .slogreplay q sx => q < 4 && sx < 64
  | .xsolveComplete die => die < 12
  | .selftestCnt die => die < 12
  | .followOnStart die => die < 12
  | .followOnRetire die => die < 12
  | .nodeLaunch die _ => die < 12
  | .copyRowArrival _ => true
  | .nodeRetire die _ => die < 12
  | .wheelPositionIssue die => die < 12
  | .bwaitTimeout die => die < 12
  | .waitaTimeout die => die < 12
  | .monitorTrigger die _ => die < 12
  | .fwaitTimeout die => die < 12
  | .firmwareEvent _ => true
  | .landingArrival _ => true
  | .namedCycleHold die => die < 12
  | .packageBarrierComplete _ => true
  | .commPhaseEnd die => die < 12
  | .redWindowExpire die _ => die < 12
  | .flitReceive die _ _ => die < 12
  | .msgRd _ => true
  | .msgWr _ => true
  | .msgAt _ => true
  | .msgRs _ => true
  | .msgXf _ => true
  | .msgMg _ => true
  | .routeNotice _ _ => true
  | .discover => true
  | .walkerResolve _ => true
  | .start _ _ => true
  | .svDrop die _ => die < 12
  | .launchPlace _ => true
  | .completionWord _ => true
  | .sliceEnd _ => true
  | .preemptionPoint die => die < 12
  | .contextRestore _ => true
  | .holdTimeout die => die < 12
  | .shadowEntry die => die < 12
  | .sideLogReplay die _ => die < 12
  | .atsResponse die _ _ => die < 12
  | .atsInvalidation _ _ => true
  | .pageRequestGrant die _ _ => die < 12
  | .hostMemoryAccess _ _ _ => true
  | .semRead _ => true
  | .semWrite _ _ => true
  | .rcbsync _ _ => true
  | .controlPortLinkReset _ => true
  | .packageCsrUpdate die _ _ => die < 12
  | .directoryHeaderWrite die => die < 12
  | .directoryRootWrite die _ => die < 12
  | .sweeperVisit die => die < 12
  | .heatWriteback die _ => die < 12
  | .cloveStart die _ => die < 12
  | .migrationRoundEnd die _ => die < 12
  | .freezeFinalCopy die _ => die < 12
  | .migrationCommit die _ => die < 12
  | .freezeTimeout die _ => die < 12
  | .dieReset die => die < 12
  | .packageReset => true
  | .rstctlDgo _ die => die < 12
  | .rstctlPgo _ => true
  | .bringup => true
  | .attreq _ _ => true
  | .attestationReport _ => true
  | .linkDown die _ => die < 12
  | .opticalEpoch => true
  | .opticalSlotOpen _ => true
  | .opticalSlotClose _ => true
  | .routerEntryWrite die _ _ => die < 12
  | .slotTableWrite _ _ => true
  | .tempSample => true
  | .levelChangeApply die _ => die < 12
  | .positionWithhold die _ => die < 12
  | .positionReturn die _ => die < 12
  | .hbmCrcRetry _ _ => true
  | .liveRepairComplete die _ _ _ => die < 12
  | .pcselWrite die _ _ => die < 12
  | .patctlGo die _ _ => die < 12
  | .patternRunDone die _ => die < 12
  | .eyectlGo die _ _ => die < 12
  | .eyeCaptureDone die _ => die < 12
  | .repairWrite die _ _ => die < 12
  | .powerWindowEnd die => die < 12
  | .governorHoldEnd die => die < 12
  | .registerWrite die _ _ => die < 12
  | .wheelMarker _ => true
  | .opticalReceive _ => true
  | .junctionCattrip die => die < 12
  | .debuggerHalt die _ => die < 12
  | .powerGating die _ => die < 12

/-- Encoded operands lie in the ranges their entries allow (R123): the fourth part of a slot's check (R125). -/
def Instr.inRange : Instr → Bool
  | .nop => true
  | .add _ _ _ => true
  | .sub _ _ _ => true
  | .mul _ _ _ => true
  | .mulhs _ _ _ => true
  | .mulhu _ _ _ => true
  | .divs _ _ _ => true
  | .divu _ _ _ => true
  | .rems _ _ _ => true
  | .remu _ _ _ => true
  | .and _ _ _ => true
  | .or _ _ _ => true
  | .xor _ _ _ => true
  | .andn _ _ _ => true
  | .shl _ _ _ => true
  | .shr _ _ _ => true
  | .sar _ _ _ => true
  | .rol _ _ _ => true
  | .min _ _ _ => true
  | .max _ _ _ => true
  | .minu _ _ _ => true
  | .maxu _ _ _ => true
  | .clz _ _ => true
  | .popc _ _ => true
  | .sel _ _ _ _ => true
  | .rotm _ _ _ _ => true
  | .addi _ _ _ => true
  | .andi _ _ _ => true
  | .ori _ _ _ => true
  | .xori _ _ _ => true
  | .shli _ _ imm => imm.toNat < 64
  | .shri _ _ imm => imm.toNat < 64
  | .sari _ _ imm => imm.toNat < 64
  | .movk _ _ _ => true
  | .ext _ _ pos len => 1 ≤ len && pos + len ≤ 64
  | .exts _ _ pos len => 1 ≤ len && pos + len ≤ 64
  | .ins _ _ pos len => 1 ≤ len && pos + len ≤ 64
  | .cmp _ cond _ _ => cond ≤ 9
  | .cmpi _ cond _ _ => cond ≤ 9
  | .pand _ _ _ _ _ => true
  | .por _ _ _ _ _ => true
  | .pxor _ _ _ _ _ => true
  | .pandn _ _ _ _ _ => true
  | .pset _ _ => true
  | .ldw _ _ _ _ => true
  | .stw _ _ _ _ => true
  | .ldrow sx _ _ _ => sx % 8 == 0
  | .strow sx _ _ _ => sx % 8 == 0
  | .csrr _ csr => userCsr csr
  | .csrw _ csr => userCsr csr
  | .csrrp _ csr => anyCsr csr
  | .csrwp _ csr => anyCsr csr
  | .br _ _ _ => true
  | .jmp _ => true
  | .jmpr _ => true
  | .call _ _ => true
  | .ret _ => true
  | .loop _ _ => true
  | .loopq _ _ => true
  | .loopswp _ _ _ => true
  | .lbrk => true
  | .ssend _ => true
  | .trap _ => true
  | .tret => true
  | .rcbld _ _ => true
  | .aread _ _ => true
  | .awrite _ _ => true
  | .arw _ _ _ _ => true
  | .adiag _ _ _ => true
  | .tlw _ sx => sx ≤ 52
  | .tlr _ sx => sx ≤ 52
  | .cset _ d _ => d ≤ 8
  | .cget _ d _ => d ≤ 8
  | .cinc _ d _ => d ≤ 8
  | .cstep _ _ => true
  | .xsolve _ _ _ => true
  | .xload _ _ _ => true
  | .xsave _ _ _ => true
  | .vadd _ => true
  | .vsub _ => true
  | .vmul _ => true
  | .vfma _ => true
  | .vmin _ => true
  | .vmax _ => true
  | .vabs _ => true
  | .vneg _ => true
  | .vand _ => true
  | .vor _ => true
  | .vxor _ => true
  | .vnot _ => true
  | .vshl _ => true
  | .vshr _ => true
  | .vsar _ => true
  | .vsel _ => true
  | .vcmpeq _ => true
  | .vcmplt _ => true
  | .vcmple _ => true
  | .vcmpne _ => true
  | .vmov _ => true
  | .vcvt a => cvtFormat (a.xf 0 4) && cvtFormat (a.xf 4 4) && a.xf 0 4 != a.xf 4 4
  | .vquant a => (4 ≤ a.xf 0 4 && a.xf 0 4 ≤ 6) || a.xf 0 4 == 9
  | .vdeq a => (4 ≤ a.xf 0 4 && a.xf 0 4 ≤ 6) || a.xf 0 4 == 9
  | .vexp2 a => !a.ty
  | .vlog2 a => !a.ty
  | .vrcp a => !a.ty
  | .vrsq a => !a.ty
  | .vgelu a => !a.ty
  | .vrotr _ => true
  | .vrotc _ => true
  | .vbcr _ => true
  | .vbcc _ => true
  | .vredr a => a.xf 0 3 ≤ 5 && (a.xf 0 3 ≤ 2 || a.ty)
  | .vredc a => a.xf 0 3 ≤ 5 && (a.xf 0 3 ≤ 2 || a.ty)
  | .vscanr a => a.xf 0 3 ≤ 5 && (a.xf 0 3 ≤ 2 || a.ty)
  | .vscanc a => a.xf 0 3 ≤ 5 && (a.xf 0 3 ≤ 2 || a.ty)
  | .vld a => a.vd + a.xf 0 2 ≤ 2047
  | .vst a => a.v1 + a.xf 0 2 ≤ 2047
  | .vmovs _ => true
  | .vsplat _ => true
  | .viota _ => true
  | .vrand _ => true
  | .vpack a => a.xf 0 2 != 3 && a.xf 3 3 < 2 * 2 ^ a.xf 0 2
  | .vunpk a => a.xf 0 2 != 3 && a.xf 3 3 < 2 * 2 ^ a.xf 0 2
  | .mloadb a => (a.len ≤ 15 && 2 ≤ a.fb && a.fb ≤ 9) || (a.len == 16 && a.fb == 11)
  | .mma a => productRange false true 1 a
  | .mmag a => productRange false true 2 a
  | .mmac a => productRange false false 0 a
  | .mrank a => ((1 ≤ a.fa && a.fa ≤ 3) || a.fa == 10) && a.len ≤ 15
  | .mzero _ => true
  | .mepi a => a.fb == 0
  | .mepiLd a => a.fb == 1
  | .mdrain a => a.fb ≤ 1
  | .mshape _ => true
  | .mstat _ => true
  | .mtest _ => true
  | .kload a => keyFormat a.kf
  | .ksort a => keyFormat a.kf
  | .kstep a => keyFormat a.kf
  | .kmerge a => keyFormat a.kf
  | .ktopk a => keyFormat a.kf
  | .kstore _ => true
  | .kstateRd _ => true
  | .kstateWr _ => true
  | .ccopy _ => true
  | .ccopyf _ => true
  | .cfill _ => true
  | .cgather _ => true
  | .cscatter _ => true
  | .cdispatch a => a.ss ≤ 62
  | .ccombine _ => true
  | .cwait _ => true
  | .cstatus _ => true
  | .migrate a => a.ss ≤ 62
  | .ldrem a => a.fn ≤ 1 && 1 ≤ a.arr && (a.fn == 0 || a.sx % 8 == 0)
  | .strem a => a.fn ≤ 1 && (a.fn == 0 || a.sx % 8 == 0)
  | .atom a => a.fn != 7 || a.sx ≤ 62
  | .scrmw a => a.fn != 7 || a.sx ≤ 62
  | .red a => a.sx % 8 == 0
  | .scld a => a.fn == 0 && 1 ≤ a.arr
  | .scst a => a.fn == 0
  | .drain _ _ => true
  | .fenced _ _ => true
  | .fencep _ _ => true
  | .binit _ _ _ _ => true
  | .barr _ _ _ _ => true
  | .bwait _ _ _ _ => true
  | .send _ => true
  | .recv a => 1 ≤ a.arr
  | .waita _ _ _ _ => true
  | .monclr a => a.fn ≤ 1
  | .cqpush _ _ => true
  | .cqpop _ _ => true
  | .osend a => a.sx % 8 == 0
  | .ostat _ _ => true
  | .atcinv _ sx => sx ≤ 62
  | .plread a => 1 ≤ a.arr
  | .plwrite _ => true
  | .fwait _ _ => true
  | .mmld a => a.fn ≤ 1 && 1 ≤ a.arr && (a.fn == 0 || a.sx % 8 == 0)
  | .mmst a => a.fn ≤ 1 && (a.fn == 0 || a.sx % 8 == 0)
  | .slogreplay _ _ => true
  | .xsolveComplete _ => true
  | .selftestCnt _ => true
  | .followOnStart _ => true
  | .followOnRetire _ => true
  | .nodeLaunch _ _ => true
  | .copyRowArrival _ => true
  | .nodeRetire _ _ => true
  | .wheelPositionIssue _ => true
  | .bwaitTimeout _ => true
  | .waitaTimeout _ => true
  | .monitorTrigger _ _ => true
  | .fwaitTimeout _ => true
  | .firmwareEvent _ => true
  | .landingArrival _ => true
  | .namedCycleHold _ => true
  | .packageBarrierComplete _ => true
  | .commPhaseEnd _ => true
  | .redWindowExpire _ _ => true
  | .flitReceive _ _ _ => true
  | .msgRd _ => true
  | .msgWr _ => true
  | .msgAt _ => true
  | .msgRs _ => true
  | .msgXf _ => true
  | .msgMg _ => true
  | .routeNotice _ _ => true
  | .discover => true
  | .walkerResolve _ => true
  | .start _ _ => true
  | .svDrop _ _ => true
  | .launchPlace _ => true
  | .completionWord _ => true
  | .sliceEnd _ => true
  | .preemptionPoint _ => true
  | .contextRestore _ => true
  | .holdTimeout _ => true
  | .shadowEntry _ => true
  | .sideLogReplay _ _ => true
  | .atsResponse _ _ _ => true
  | .atsInvalidation _ _ => true
  | .pageRequestGrant _ _ _ => true
  | .hostMemoryAccess _ _ _ => true
  | .semRead _ => true
  | .semWrite _ _ => true
  | .rcbsync _ _ => true
  | .controlPortLinkReset _ => true
  | .packageCsrUpdate _ _ _ => true
  | .directoryHeaderWrite _ => true
  | .directoryRootWrite _ _ => true
  | .sweeperVisit _ => true
  | .heatWriteback _ _ => true
  | .cloveStart _ _ => true
  | .migrationRoundEnd _ _ => true
  | .freezeFinalCopy _ _ => true
  | .migrationCommit _ _ => true
  | .freezeTimeout _ _ => true
  | .dieReset _ => true
  | .packageReset => true
  | .rstctlDgo _ _ => true
  | .rstctlPgo _ => true
  | .bringup => true
  | .attreq _ _ => true
  | .attestationReport _ => true
  | .linkDown _ _ => true
  | .opticalEpoch => true
  | .opticalSlotOpen _ => true
  | .opticalSlotClose _ => true
  | .routerEntryWrite _ _ _ => true
  | .slotTableWrite _ _ => true
  | .tempSample => true
  | .levelChangeApply _ _ => true
  | .positionWithhold _ _ => true
  | .positionReturn _ _ => true
  | .hbmCrcRetry _ _ => true
  | .liveRepairComplete _ _ _ _ => true
  | .pcselWrite _ _ _ => true
  | .patctlGo _ _ _ => true
  | .patternRunDone _ _ => true
  | .eyectlGo _ _ _ => true
  | .eyeCaptureDone _ _ => true
  | .repairWrite _ _ _ => true
  | .powerWindowEnd _ => true
  | .governorHoldEnd _ => true
  | .registerWrite _ _ _ => true
  | .wheelMarker _ => true
  | .opticalReceive _ => true
  | .junctionCattrip _ => true
  | .debuggerHalt _ _ => true
  | .powerGating _ _ => true

/-- Operand fields the operation does not use are zero (R122), as far as the syntax holds them. -/
def Instr.unusedZero : Instr → Bool
  | .nop => true
  | .add _ _ _ => true
  | .sub _ _ _ => true
  | .mul _ _ _ => true
  | .mulhs _ _ _ => true
  | .mulhu _ _ _ => true
  | .divs _ _ _ => true
  | .divu _ _ _ => true
  | .rems _ _ _ => true
  | .remu _ _ _ => true
  | .and _ _ _ => true
  | .or _ _ _ => true
  | .xor _ _ _ => true
  | .andn _ _ _ => true
  | .shl _ _ _ => true
  | .shr _ _ _ => true
  | .sar _ _ _ => true
  | .rol _ _ _ => true
  | .min _ _ _ => true
  | .max _ _ _ => true
  | .minu _ _ _ => true
  | .maxu _ _ _ => true
  | .clz _ _ => true
  | .popc _ _ => true
  | .sel _ _ _ _ => true
  | .rotm _ _ _ _ => true
  | .addi _ _ _ => true
  | .andi _ _ _ => true
  | .ori _ _ _ => true
  | .xori _ _ _ => true
  | .shli _ _ _ => true
  | .shri _ _ _ => true
  | .sari _ _ _ => true
  | .movk _ _ _ => true
  | .ext _ _ _ _ => true
  | .exts _ _ _ _ => true
  | .ins _ _ _ _ => true
  | .cmp _ _ _ _ => true
  | .cmpi _ _ _ _ => true
  | .pand _ _ _ _ _ => true
  | .por _ _ _ _ _ => true
  | .pxor _ _ _ _ _ => true
  | .pandn _ _ _ _ _ => true
  | .pset _ _ => true
  | .ldw _ _ _ _ => true
  | .stw _ _ _ _ => true
  | .ldrow _ _ _ w => w == 0
  | .strow _ _ _ w => w == 0
  | .csrr _ _ => true
  | .csrw _ _ => true
  | .csrrp _ _ => true
  | .csrwp _ _ => true
  | .br _ _ _ => true
  | .jmp _ => true
  | .jmpr _ => true
  | .call _ _ => true
  | .ret _ => true
  | .loop _ _ => true
  | .loopq _ _ => true
  | .loopswp _ _ _ => true
  | .lbrk => true
  | .ssend _ => true
  | .trap _ => true
  | .tret => true
  | .rcbld _ _ => true
  | .aread _ _ => true
  | .awrite _ _ => true
  | .arw _ _ _ _ => true
  | .adiag _ _ _ => true
  | .tlw _ _ => true
  | .tlr _ _ => true
  | .cset _ _ _ => true
  | .cget _ _ _ => true
  | .cinc _ _ _ => true
  | .cstep _ _ => true
  | .xsolve _ _ _ => true
  | .xload _ _ _ => true
  | .xsave _ _ _ => true
  | .vadd a => a.ss == 0
  | .vsub a => a.ss == 0
  | .vmul a => a.ss == 0
  | .vfma a => a.ss == 0
  | .vmin a => a.ss == 0
  | .vmax a => a.ss == 0
  | .vabs a => (a.v2 == 0 || (a.unit == 1 && a.v2 == a.v3)) && a.ss == 0
  | .vneg a => (a.v2 == 0 || (a.unit == 1 && a.v2 == a.v3)) && a.ss == 0
  | .vand a => !a.ty && a.ss == 0
  | .vor a => !a.ty && a.ss == 0
  | .vxor a => !a.ty && a.ss == 0
  | .vnot a => !a.ty && (a.v2 == 0 || (a.unit == 1 && a.v2 == a.v3)) && a.ss == 0
  | .vshl a => !a.ty && a.ss == 0
  | .vshr a => !a.ty && a.ss == 0
  | .vsar a => !a.ty && a.ss == 0
  | .vsel a => !a.ty && a.ss == 0
  | .vcmpeq a => a.ss == 0
  | .vcmplt a => a.ss == 0
  | .vcmple a => a.ss == 0
  | .vcmpne a => a.ss == 0
  | .vmov a => !a.ty && a.ss == 0
  | .vcvt a => !a.ty && (a.v2 == 0 || (a.unit == 1 && a.v2 == a.v3)) && a.xf 8 5 == 0 && a.ss == 0
  | .vquant a => !a.ty && (a.v2 == 0 || (a.unit == 1 && a.v2 == a.v3)) && a.xf 4 9 == 0 && a.ss == 0
  | .vdeq a => !a.ty && (a.v2 == 0 || (a.unit == 1 && a.v2 == a.v3)) && a.xf 4 9 == 0 && a.ss == 0
  | .vexp2 a => a.vr == 0 && (a.v2 == 0 || (a.unit == 1 && a.v2 == a.v3)) && a.x == 0 && a.ss == 0
  | .vlog2 a => a.vr == 0 && (a.v2 == 0 || (a.unit == 1 && a.v2 == a.v3)) && a.x == 0 && a.ss == 0
  | .vrcp a => a.vr == 0 && (a.v2 == 0 || (a.unit == 1 && a.v2 == a.v3)) && a.x == 0 && a.ss == 0
  | .vrsq a => a.vr == 0 && (a.v2 == 0 || (a.unit == 1 && a.v2 == a.v3)) && a.x == 0 && a.ss == 0
  | .vgelu a => a.vr == 0 && (a.v2 == 0 || (a.unit == 1 && a.v2 == a.v3)) && a.x == 0 && a.ss == 0
  | .vrotr a => !a.ty && a.vr == 0 && (a.v2 == 0 || (a.unit == 1 && a.v2 == a.v3)) && a.xf 6 6 == 0 && (a.xf 12 1 == 0 || a.xf 0 6 == 0) && (a.xf 12 1 == 1 || a.ss == 0)
  | .vrotc a => !a.ty && a.vr == 0 && (a.v2 == 0 || (a.unit == 1 && a.v2 == a.v3)) && a.xf 4 8 == 0 && (a.xf 12 1 == 0 || a.xf 0 4 == 0) && (a.xf 12 1 == 1 || a.ss == 0)
  | .vbcr a => !a.ty && a.vr == 0 && (a.v2 == 0 || (a.unit == 1 && a.v2 == a.v3)) && a.xf 6 6 == 0 && (a.xf 12 1 == 0 || a.xf 0 6 == 0) && (a.xf 12 1 == 1 || a.ss == 0)
  | .vbcc a => !a.ty && a.vr == 0 && (a.v2 == 0 || (a.unit == 1 && a.v2 == a.v3)) && a.xf 4 8 == 0 && (a.xf 12 1 == 0 || a.xf 0 4 == 0) && (a.xf 12 1 == 1 || a.ss == 0)
  | .vredr a => a.vr == 0 && (a.v2 == 0 || (a.unit == 1 && a.v2 == a.v3)) && a.xf 3 10 == 0 && a.ss == 0
  | .vredc a => a.vr == 0 && (a.v2 == 0 || (a.unit == 1 && a.v2 == a.v3)) && a.xf 3 10 == 0 && a.ss == 0
  | .vscanr a => a.vr == 0 && (a.v2 == 0 || (a.unit == 1 && a.v2 == a.v3)) && a.xf 4 9 == 0 && a.ss == 0
  | .vscanc a => a.vr == 0 && (a.v2 == 0 || (a.unit == 1 && a.v2 == a.v3)) && a.xf 4 9 == 0 && a.ss == 0
  | .vld a => !a.ty && a.v1 == 0 && (a.v2 == 0 || (a.unit == 1 && a.v2 == a.v3)) && a.xf 2 11 == 0 && a.ss == 0
  | .vst a => !a.ty && a.vr == 0 && a.vd == 0 && (a.v2 == 0 || (a.unit == 1 && a.v2 == a.v3)) && a.xf 2 11 == 0 && a.ss == 0
  | .vmovs a => !a.ty && a.vr == 0 && a.vd == 0 && (a.v2 == 0 || (a.unit == 1 && a.v2 == a.v3)) && a.xf 10 3 == 0
  | .vsplat a => !a.ty && a.vr == 0 && a.v1 == 0 && (a.v2 == 0 || (a.unit == 1 && a.v2 == a.v3)) && a.x == 0
  | .viota a => !a.ty && a.vr == 0 && a.v1 == 0 && (a.v2 == 0 || (a.unit == 1 && a.v2 == a.v3)) && a.x == 0
  | .vrand a => !a.ty && a.vr == 0 && a.v1 == 0 && (a.v2 == 0 || (a.unit == 1 && a.v2 == a.v3)) && a.x == 0
  | .vpack a => !a.ty && a.vr == 0 && a.xf 2 1 == 0 && a.xf 6 7 == 0 && a.ss == 0
  | .vunpk a => !a.ty && a.vr == 0 && (a.v2 == 0 || (a.unit == 1 && a.v2 == a.v3)) && a.xf 6 7 == 0 && a.ss == 0
  | .mloadb a => a.acc == 0 && a.asrc == 0 && a.fa == 0 && a.epb == 0 && a.ss == 0 && a.vs == 0
  | .mma a => a.asrc == 0 && a.fb == 0 && a.epb / 2 == 0 && (a.epb % 2 == 1 || a.vs == 0)
  | .mmag a => a.asrc == 0 && a.fb == 0 && a.epb / 2 == 0
  | .mmac a => a.fb == 0 && a.epb / 2 == 0 && a.vs == 0
  | .mrank a => a.asrc == 0 && a.fb == 0 && a.epb == 0 && a.vs == 0
  | .mzero a => a.fa ≤ 1 && a.asrc == 0 && a.fb == 0 && a.len == 0 && a.epb == 0 && a.ss == 0 && a.vs == 0
  | .mepi a => a.asrc == 0 && a.fa == 0
  | .mepiLd a => a.acc == 0 && a.asrc == 0 && a.fa == 0 && a.len == 0 && a.ss == 0 && a.vs == 0
  | .mdrain a => a.asrc == 0 && a.fa == 0 && a.fb == 0
  | .mshape a => a.acc == 0 && a.asrc == 0 && a.fa == 0 && a.fb == 0 && a.len == 0 && a.epb == 0 && a.vs == 0
  | .mstat a => a.acc == 0 && a.asrc == 0 && a.fa == 0 && a.fb == 0 && a.len == 0 && a.epb == 0 && a.vs == 0
  | .mtest a => a.acc == 0 && a.asrc == 0 && a.fa == 0 && a.fb == 0 && a.len == 0 && a.epb == 0 && a.vs == 0
  | .kload a => !a.dir && !a.rmj
  | .ksort a => !a.rmj && a.ss == 0
  | .kstep a => !a.rmj
  | .kmerge a => !a.rmj && a.ss == 0
  | .ktopk a => !a.rmj
  | .kstore a => a.lr == 0 && a.lc == 0 && a.kf == 0
  | .kstateRd a => !a.dir && !a.rmj && a.lr == 0 && a.lc == 0 && a.kf == 0
  | .kstateWr a => a.dir && !a.rmj && a.lr == 0 && a.lc == 0 && a.kf == 0
  | .ccopy a => a.aux == 0 && a.follow == 0
  | .ccopyf a => a.aux == 0
  | .cfill a => a.tlb == 0 && a.cb == 0 && a.aux == 0 && a.follow == 0
  | .cgather a => a.aux == 0 && a.follow == 0
  | .cscatter a => a.aux == 0 && a.follow == 0
  | .cdispatch a => (a.aux / 4 == 1 || a.aux % 4 == 0) && a.follow == 0
  | .ccombine a => a.aux == 0 && a.follow == 0
  | .cwait a => a.tla == 0 && a.ca == 0 && a.tlb == 0 && a.cb == 0 && a.cw == 0 && a.ss == 0 && a.aux == 0 && a.follow == 0
  | .cstatus a => a.tla == 0 && a.ca == 0 && a.tlb == 0 && a.cb == 0 && a.cw == 0 && a.p2 == 0 && a.aux == 0 && a.follow == 0
  | .migrate a => a.tlb == 0 && a.cb == 0 && a.cw == 0 && a.aux == 0 && a.follow == 0
  | .ldrem _ => true
  | .strem a => a.arr == 0
  | .atom _ => true
  | .scrmw _ => true
  | .red a => a.arr == 0
  | .scld _ => true
  | .scst a => a.arr == 0
  | .drain q _ => q == 0
  | .fenced q _ => q == 0
  | .fencep _ _ => true
  | .binit _ _ pd sd => pd == 0 && sd == 0
  | .barr _ _ pd sd => pd == 0 && sd == 0
  | .bwait _ _ _ _ => true
  | .send a => a.arr == 0 && a.fn == 0
  | .recv a => a.fn == 0
  | .waita _ _ _ _ => true
  | .monclr a => (a.fn == 0 || (a.tl == 0 && a.c == 0)) && a.sx == 0 && a.arr == 0
  | .cqpush _ _ => true
  | .cqpop _ _ => true
  | .osend a => a.arr == 0 && a.fn == 0
  | .ostat q _ => q == 0
  | .atcinv _ _ => true
  | .plread a => a.fn == 0
  | .plwrite a => a.arr == 0 && a.fn == 0
  | .fwait q _ => q == 0
  | .mmld _ => true
  | .mmst a => a.arr == 0
  | .slogreplay q _ => q == 0
  | .xsolveComplete _ => true
  | .selftestCnt _ => true
  | .followOnStart _ => true
  | .followOnRetire _ => true
  | .nodeLaunch _ _ => true
  | .copyRowArrival _ => true
  | .nodeRetire _ _ => true
  | .wheelPositionIssue _ => true
  | .bwaitTimeout _ => true
  | .waitaTimeout _ => true
  | .monitorTrigger _ _ => true
  | .fwaitTimeout _ => true
  | .firmwareEvent _ => true
  | .landingArrival _ => true
  | .namedCycleHold _ => true
  | .packageBarrierComplete _ => true
  | .commPhaseEnd _ => true
  | .redWindowExpire _ _ => true
  | .flitReceive _ _ _ => true
  | .msgRd _ => true
  | .msgWr _ => true
  | .msgAt _ => true
  | .msgRs _ => true
  | .msgXf _ => true
  | .msgMg _ => true
  | .routeNotice _ _ => true
  | .discover => true
  | .walkerResolve _ => true
  | .start _ _ => true
  | .svDrop _ _ => true
  | .launchPlace _ => true
  | .completionWord _ => true
  | .sliceEnd _ => true
  | .preemptionPoint _ => true
  | .contextRestore _ => true
  | .holdTimeout _ => true
  | .shadowEntry _ => true
  | .sideLogReplay _ _ => true
  | .atsResponse _ _ _ => true
  | .atsInvalidation _ _ => true
  | .pageRequestGrant _ _ _ => true
  | .hostMemoryAccess _ _ _ => true
  | .semRead _ => true
  | .semWrite _ _ => true
  | .rcbsync _ _ => true
  | .controlPortLinkReset _ => true
  | .packageCsrUpdate _ _ _ => true
  | .directoryHeaderWrite _ => true
  | .directoryRootWrite _ _ => true
  | .sweeperVisit _ => true
  | .heatWriteback _ _ => true
  | .cloveStart _ _ => true
  | .migrationRoundEnd _ _ => true
  | .freezeFinalCopy _ _ => true
  | .migrationCommit _ _ => true
  | .freezeTimeout _ _ => true
  | .dieReset _ => true
  | .packageReset => true
  | .rstctlDgo _ _ => true
  | .rstctlPgo _ => true
  | .bringup => true
  | .attreq _ _ => true
  | .attestationReport _ => true
  | .linkDown _ _ => true
  | .opticalEpoch => true
  | .opticalSlotOpen _ => true
  | .opticalSlotClose _ => true
  | .routerEntryWrite _ _ _ => true
  | .slotTableWrite _ _ => true
  | .tempSample => true
  | .levelChangeApply _ _ => true
  | .positionWithhold _ _ => true
  | .positionReturn _ _ => true
  | .hbmCrcRetry _ _ => true
  | .liveRepairComplete _ _ _ _ => true
  | .pcselWrite _ _ _ => true
  | .patctlGo _ _ _ => true
  | .patternRunDone _ _ => true
  | .eyectlGo _ _ _ => true
  | .eyeCaptureDone _ _ => true
  | .repairWrite _ _ _ => true
  | .powerWindowEnd _ => true
  | .governorHoldEnd _ => true
  | .registerWrite _ _ _ => true
  | .wheelMarker _ => true
  | .opticalReceive _ => true
  | .junctionCattrip _ => true
  | .debuggerHalt _ _ => true
  | .powerGating _ _ => true

/-- A well-formed instruction: what an encoding of the part can hold. -/
def Instr.wf (i : Instr) : Bool := i.fits && i.inRange && i.unusedZero

end Sys2Proof
end

