-- ==== Sys2Proof/Decode.lean ====
section
/-!
DEFINITION. Decoding a 512-bit bundle (R120-R136) into its instructions, in the order of checks of R125, and the encoder
written from the same tables. Bit-field helpers used by the whole model stand here.
-/

namespace Sys2Proof

/-- Bits [lo+n-1 : lo] of a number. -/
def fld (w lo n : Nat) : Nat := w / 2 ^ lo % 2 ^ n

/-- Bit `b` of a number. -/
def bitOf (w b : Nat) : Bool := w / 2 ^ b % 2 == 1

/-- The two's-complement value of the low `n` bits of `x`. -/
def sint (n x : Nat) : Int := let y := x % 2 ^ n; if 2 * y < 2 ^ n then (y : Int) else (y : Int) - (2 ^ n : Nat)

/-- Concatenate (width, value) fields, the first at the lowest bits. -/
def pack : List (Nat × Nat) → Nat
  | [] => 0
  | (n, v) :: r => v % 2 ^ n + 2 ^ n * pack r

/-- The number a list of little-endian bytes stands for (R2). -/
def leBytes : List (BitVec 8) → Nat
  | [] => 0
  | b :: r => b.toNat + 256 * leBytes r

/-- The `n` little-endian bytes of a number (R2). -/
def toBytes : Nat → Nat → List (BitVec 8)
  | 0, _ => []
  | n + 1, x => BitVec.ofNat 8 x :: toBytes n (x / 256)

/-- The CODE of a fault record (R337). -/
def Code.num : Code → Nat
  | .illegalOp => 0x0001 | .reservedBits => 0x0002 | .privilegedOp => 0x0003 | .stallShort => 0x0004
  | .loopDepth => 0x0005 | .loopExit => 0x0006 | .codeRange => 0x0007 | .wrongPhase => 0x0008
  | .landingFull => 0x0009 | .queueFull => 0x000A | .tretState => 0x000B
  | .wallRange => 0x0030 | .layoutReserved => 0x0031 | .bankConflict => 0x0032 | .wrongSpace => 0x0033
  | .solverBusy => 0x0034
  | .tileFormat => 0x0040 | .accMode => 0x0041 | .matrixRange => 0x0042 | .offsetOrder => 0x0043
  | .offsetRange => 0x0044 | .shapeLost => 0x0045 | .matrixBusy => 0x0046 | .epilogueReserved => 0x0047
  | .sortBusy => 0x0048 | .sortRange => 0x0049 | .sortShape => 0x004A | .sortState => 0x004B
  | .copyRange => 0x0050 | .copyFormat => 0x0051 | .copyShape => 0x0052
  | .dieMask => 0x0058 | .wheelScope => 0x0059 | .sendTarget => 0x005A | .tagReuse => 0x005B | .sendLimit => 0x005C
  | .sendUnmatched => 0x005D | .plState => 0x005E
  | .migrateAbort => 0x0060 | .pageFault => 0x0070 | .targetLost => 0x0071 | .uncorrectable => 0x0080
  | .holdTimeout => 0x0090 | .dieLost => 0x0091 | .doubleFault => 0x0092 | .saveFault => 0x0093
  | .userTrap code => 0x0100 + code % 256

/-- SLOT of a fault record (R273). -/
def Slot.num : Slot → Nat
  | .s0 => 0 | .s1 => 1 | .a => 2 | .v => 3 | .m => 4 | .k => 5 | .c => 6 | .y => 7

/-- Who runs a bundle: a house sequencer (R13), and whether in system mode (R277). -/
structure DecodeCtx where
  house : Bool
  sys : Bool
  deriving DecidableEq, Repr

/-- Opcodes marked privileged, and CSRR and CSRW of numbers 0x100-0xFFF (R124). -/
def Instr.privileged (i : Instr) : Bool :=
  match i with
  | .csrr _ csr => 0x100 ≤ csr
  | .csrw _ csr => 0x100 ≤ csr
  | .csrrp _ _ => true
  | .csrwp _ _ => true
  | .tret => true
  | .rcbld _ _ => true
  | .migrate _ => true
  | .atcinv _ _ => true
  | .plread _ => true
  | .plwrite _ => true
  | .fwait _ _ => true
  | .mmld _ => true
  | .mmst _ => true
  | .slogreplay _ _ => true
  | _ => false

/-- Operations the house profile refuses in the slots it keeps (R125 step 3, R168, R107, R252, R160, R239). -/
def Instr.houseRefused (i : Instr) : Bool :=
  match i with
  | .ssend _ => true
  | .aread _ _ => true
  | .awrite _ _ => true
  | .arw _ _ _ _ => true
  | .adiag _ _ _ => true
  | .xsolve _ _ _ => true
  | .xload _ _ _ => true
  | .xsave _ _ _ => true
  | .scld _ => true
  | .scst _ => true
  | .scrmw _ => true
  | .send _ => true
  | .recv _ => true
  | .ccopyf _ => true
  | .cgather _ => true
  | .cscatter _ => true
  | .cdispatch _ => true
  | .ccombine _ => true
  | _ => false

/-- Control opcodes, which S1 does not accept (R127). -/
def Instr.control (i : Instr) : Bool :=
  match i with
  | .br _ _ _ => true
  | .jmp _ => true
  | .jmpr _ => true
  | .call _ _ => true
  | .ret _ => true
  | .loop _ _ => true
  | .loopq _ _ => true
  | .loopswp _ _ _ => true
  | .lbrk => true
  | .ssend _ => true
  | .trap _ => true
  | .tret => true
  | .rcbld _ _ => true
  | _ => false

/-- The S-slot opcode map and formats (R126, R127): the instruction and its fields marked zero. -/
def rawS (w : Nat) : Option (Instr × List (Nat × Nat)) :=
  match fld w 0 8 with
  | 0 => some (.nop, [(8, 32)])
  | 1 => some (.add (fld w 8 6) (fld w 14 6) (fld w 20 6), [(26, 6), (32, 4), (36, 4)])
  | 2 => some (.sub (fld w 8 6) (fld w 14 6) (fld w 20 6), [(26, 6), (32, 4), (36, 4)])
  | 3 => some (.mul (fld w 8 6) (fld w 14 6) (fld w 20 6), [(26, 6), (32, 4), (36, 4)])
  | 4 => some (.mulhs (fld w 8 6) (fld w 14 6) (fld w 20 6), [(26, 6), (32, 4), (36, 4)])
  | 5 => some (.mulhu (fld w 8 6) (fld w 14 6) (fld w 20 6), [(26, 6), (32, 4), (36, 4)])
  | 6 => some (.divs (fld w 8 6) (fld w 14 6) (fld w 20 6), [(26, 6), (32, 4), (36, 4)])
  | 7 => some (.divu (fld w 8 6) (fld w 14 6) (fld w 20 6), [(26, 6), (32, 4), (36, 4)])
  | 8 => some (.rems (fld w 8 6) (fld w 14 6) (fld w 20 6), [(26, 6), (32, 4), (36, 4)])
  | 9 => some (.remu (fld w 8 6) (fld w 14 6) (fld w 20 6), [(26, 6), (32, 4), (36, 4)])
  | 10 => some (.and (fld w 8 6) (fld w 14 6) (fld w 20 6), [(26, 6), (32, 4), (36, 4)])
  | 11 => some (.or (fld w 8 6) (fld w 14 6) (fld w 20 6), [(26, 6), (32, 4), (36, 4)])
  | 12 => some (.xor (fld w 8 6) (fld w 14 6) (fld w 20 6), [(26, 6), (32, 4), (36, 4)])
  | 13 => some (.andn (fld w 8 6) (fld w 14 6) (fld w 20 6), [(26, 6), (32, 4), (36, 4)])
  | 14 => some (.shl (fld w 8 6) (fld w 14 6) (fld w 20 6), [(26, 6), (32, 4), (36, 4)])
  | 15 => some (.shr (fld w 8 6) (fld w 14 6) (fld w 20 6), [(26, 6), (32, 4), (36, 4)])
  | 16 => some (.sar (fld w 8 6) (fld w 14 6) (fld w 20 6), [(26, 6), (32, 4), (36, 4)])
  | 17 => some (.rol (fld w 8 6) (fld w 14 6) (fld w 20 6), [(26, 6), (32, 4), (36, 4)])
  | 18 => some (.min (fld w 8 6) (fld w 14 6) (fld w 20 6), [(26, 6), (32, 4), (36, 4)])
  | 19 => some (.max (fld w 8 6) (fld w 14 6) (fld w 20 6), [(26, 6), (32, 4), (36, 4)])
  | 20 => some (.minu (fld w 8 6) (fld w 14 6) (fld w 20 6), [(26, 6), (32, 4), (36, 4)])
  | 21 => some (.maxu (fld w 8 6) (fld w 14 6) (fld w 20 6), [(26, 6), (32, 4), (36, 4)])
  | 22 => some (.clz (fld w 8 6) (fld w 14 6), [(20, 6), (26, 6), (32, 4), (36, 4)])
  | 23 => some (.popc (fld w 8 6) (fld w 14 6), [(20, 6), (26, 6), (32, 4), (36, 4)])
  | 24 => some (.sel (fld w 8 6) (fld w 32 4) (fld w 14 6) (fld w 20 6), [(26, 6), (36, 4)])
  | 25 => some (.rotm (fld w 8 6) (fld w 14 6) (fld w 20 6) (fld w 26 6), [(32, 4), (36, 4)])
  | 32 => some (.addi (fld w 8 6) (fld w 14 6) (BitVec.ofNat 20 (fld w 20 20)), [])
  | 33 => some (.andi (fld w 8 6) (fld w 14 6) (BitVec.ofNat 20 (fld w 20 20)), [])
  | 34 => some (.ori (fld w 8 6) (fld w 14 6) (BitVec.ofNat 20 (fld w 20 20)), [])
  | 35 => some (.xori (fld w 8 6) (fld w 14 6) (BitVec.ofNat 20 (fld w 20 20)), [])
  | 36 => some (.shli (fld w 8 6) (fld w 14 6) (BitVec.ofNat 20 (fld w 20 20)), [])
  | 37 => some (.shri (fld w 8 6) (fld w 14 6) (BitVec.ofNat 20 (fld w 20 20)), [])
  | 38 => some (.sari (fld w 8 6) (fld w 14 6) (BitVec.ofNat 20 (fld w 20 20)), [])
  | 39 => some (.movk (fld w 8 6) (fld w 14 2) (BitVec.ofNat 16 (fld w 16 16)), [(32, 8)])
  | 40 => some (.ext (fld w 8 6) (fld w 14 6) (fld w 20 6) ((fld w 26 6) + 1), [(32, 8)])
  | 41 => some (.exts (fld w 8 6) (fld w 14 6) (fld w 20 6) ((fld w 26 6) + 1), [(32, 8)])
  | 42 => some (.ins (fld w 8 6) (fld w 14 6) (fld w 20 6) ((fld w 26 6) + 1), [(32, 8)])
  | 48 => some (.cmp (fld w 8 4) (fld w 12 4) (fld w 16 6) (fld w 22 6), [(28, 12)])
  | 49 => some (.cmpi (fld w 8 4) (fld w 12 4) (fld w 16 6) (BitVec.ofNat 18 (fld w 22 18)), [])
  | 52 => some (.pand (fld w 8 4) (fld w 12 4) (fld w 16 4) (fld w 20 1 == 1) (fld w 21 1 == 1), [(22, 18)])
  | 53 => some (.por (fld w 8 4) (fld w 12 4) (fld w 16 4) (fld w 20 1 == 1) (fld w 21 1 == 1), [(22, 18)])
  | 54 => some (.pxor (fld w 8 4) (fld w 12 4) (fld w 16 4) (fld w 20 1 == 1) (fld w 21 1 == 1), [(22, 18)])
  | 55 => some (.pandn (fld w 8 4) (fld w 12 4) (fld w 16 4) (fld w 20 1 == 1) (fld w 21 1 == 1), [(22, 18)])
  | 56 => some (.pset (fld w 8 4) (fld w 20 1 == 1), [(12, 8), (21, 19)])
  | 64 => some (.ldw (fld w 8 6) (fld w 14 9) (fld w 23 5) (fld w 28 3), [(31, 9)])
  | 65 => some (.stw (fld w 8 6) (fld w 14 9) (fld w 23 5) (fld w 28 3), [(31, 9)])
  | 66 => some (.ldrow (fld w 8 6) (fld w 14 9) (fld w 23 5) (fld w 28 3), [(31, 9)])
  | 67 => some (.strow (fld w 8 6) (fld w 14 9) (fld w 23 5) (fld w 28 3), [(31, 9)])
  | 72 => some (.csrr (fld w 8 6) (fld w 14 12), [(26, 14)])
  | 73 => some (.csrw (fld w 8 6) (fld w 14 12), [(26, 14)])
  | 74 => some (.csrrp (fld w 8 6) (fld w 14 12), [(26, 14)])
  | 75 => some (.csrwp (fld w 8 6) (fld w 14 12), [(26, 14)])
  | 80 => some (.br (fld w 8 4) (fld w 12 1 == 1) (BitVec.ofNat 27 (fld w 13 27)), [])
  | 81 => some (.jmp (fld w 8 32), [])
  | 82 => some (.jmpr (fld w 14 6), [(8, 6), (20, 20)])
  | 83 => some (.call (fld w 8 6) (BitVec.ofNat 26 (fld w 14 26)), [])
  | 84 => some (.ret (fld w 14 6), [(8, 6), (20, 20)])
  | 85 => some (.loop (fld w 8 6) ((fld w 14 16) + 1), [(30, 10)])
  | 86 => some (.loopq (fld w 8 2) ((fld w 14 16) + 1), [(10, 4), (30, 10)])
  | 87 => some (.loopswp (fld w 8 6) ((fld w 14 16) + 1) (fld w 30 3), [(33, 7)])
  | 88 => some (.lbrk, [(8, 32)])
  | 89 => some (.ssend (fld w 8 16), [(24, 16)])
  | 90 => some (.trap (fld w 8 8), [(16, 24)])
  | 91 => some (.tret, [(8, 32)])
  | 92 => some (.rcbld (fld w 8 6) (fld w 14 6), [(20, 20)])
  | _ => none

/-- The A-slot opcode map and formats (R129). -/
def rawA (w : Nat) : Option (Instr × List (Nat × Nat)) :=
  match fld w 0 6 with
  | 0 => some (.nop, [(6, 34)])
  | 1 => some (.aread (fld w 6 9) (fld w 15 5), [(20, 1), (21, 19)])
  | 2 => some (.awrite (fld w 6 9) (fld w 15 5), [(20, 1), (21, 19)])
  | 3 => some (.arw (fld w 6 9) (fld w 15 5) (fld w 20 9) (fld w 29 5), [(34, 6)])
  | 4 => some (.adiag (fld w 6 9) (fld w 15 5) (fld w 20 1 == 1), [(21, 19)])
  | 8 => some (.tlw (fld w 6 9) (fld w 15 6), [(21, 19)])
  | 9 => some (.tlr (fld w 6 9) (fld w 15 6), [(21, 19)])
  | 12 => some (.cset (fld w 6 5) (fld w 11 4) (fld w 15 6), [(21, 19)])
  | 13 => some (.cget (fld w 6 5) (fld w 11 4) (fld w 15 6), [(21, 19)])
  | 14 => some (.cinc (fld w 6 5) (fld w 11 4) (BitVec.ofNat 19 (fld w 21 19)), [(15, 6)])
  | 15 => some (.cstep (fld w 6 5) (fld w 15 5), [(11, 4), (20, 1), (21, 19)])
  | 16 => some (.xsolve (fld w 6 12) (fld w 18 11) (fld w 29 4), [(33, 7)])
  | 17 => some (.xload (fld w 6 12) (fld w 18 9) (fld w 27 5), [(32, 8)])
  | 18 => some (.xsave (fld w 6 12) (fld w 18 9) (fld w 27 5), [(32, 8)])
  | _ => none

/-- The fields of the M slot (R132). -/
def mArgs (w : Nat) : MArgs :=
  ⟨fld w 6 2, fld w 8 2, fld w 10 4, fld w 14 4, fld w 18 8, fld w 26 6, fld w 32 6, fld w 38 11⟩

/-- The M-slot opcode map (R132); opcode 7 is MEPI.LD when FB is 1 (R209). -/
def rawM (w : Nat) : Option (Instr × List (Nat × Nat)) :=
  match fld w 0 6 with
  | 0 => some (.nop, [(6, 50)])
  | 1 => some (.mloadb (mArgs w), [(49, 7)])
  | 2 => some (.mma (mArgs w), [(49, 7)])
  | 3 => some (.mmac (mArgs w), [(49, 7)])
  | 4 => some (.mmag (mArgs w), [(49, 7)])
  | 5 => some (.mrank (mArgs w), [(49, 7)])
  | 6 => some (.mzero (mArgs w), [(49, 7)])
  | 7 => some (if fld w 14 4 == 1 then .mepiLd (mArgs w) else .mepi (mArgs w), [(49, 7)])
  | 8 => some (.mdrain (mArgs w), [(49, 7)])
  | 9 => some (.mshape (mArgs w), [(49, 7)])
  | 10 => some (.mstat (mArgs w), [(49, 7)])
  | 11 => some (.mtest (mArgs w), [(49, 7)])
  | _ => none

/-- The fields of the K slot (R133). -/
def kArgs (w : Nat) : KArgs :=
  ⟨fld w 4 3, fld w 7 3, fld w 10 4, fld w 14 1 == 1, fld w 15 1 == 1, fld w 16 6⟩

/-- The K-slot opcode map (R133); opcode 7 reads when DIR is 0 and restores when it is 1 (R230). -/
def rawK (w : Nat) : Option (Instr × List (Nat × Nat)) :=
  match fld w 0 4 with
  | 0 => some (.nop, [(4, 20)])
  | 1 => some (.kload (kArgs w), [(22, 2)])
  | 2 => some (.ksort (kArgs w), [(22, 2)])
  | 3 => some (.kstep (kArgs w), [(22, 2)])
  | 4 => some (.kmerge (kArgs w), [(22, 2)])
  | 5 => some (.ktopk (kArgs w), [(22, 2)])
  | 6 => some (.kstore (kArgs w), [(22, 2)])
  | 7 => some (if fld w 14 1 == 1 then .kstateWr (kArgs w) else .kstateRd (kArgs w), [(22, 2)])
  | _ => none

/-- The fields of the C slot (R134); `m` is the M slot word a CCOPYF captures (R135). -/
def cArgs (w m : Nat) : CArgs :=
  ⟨fld w 6 9, fld w 15 5, fld w 20 9, fld w 29 5, fld w 34 5, fld w 39 4, fld w 43 4, fld w 47 6, fld w 53 3, m⟩

/-- The C-slot opcode map (R134). -/
def rawC (w m : Nat) : Option (Instr × List (Nat × Nat)) :=
  match fld w 0 6 with
  | 0 => some (.nop, [(6, 50)])
  | 1 => some (.ccopy (cArgs w 0), [])
  | 2 => some (.ccopyf (cArgs w m), [])
  | 3 => some (.cgather (cArgs w 0), [])
  | 4 => some (.cscatter (cArgs w 0), [])
  | 5 => some (.cdispatch (cArgs w 0), [])
  | 6 => some (.ccombine (cArgs w 0), [])
  | 7 => some (.cfill (cArgs w 0), [])
  | 8 => some (.cwait (cArgs w 0), [])
  | 9 => some (.cstatus (cArgs w 0), [])
  | 16 => some (.migrate (cArgs w 0), [])
  | _ => none

/-- The fields of the Y.M format (R136). -/
def yArgs (w : Nat) : YArgs := ⟨fld w 6 9, fld w 15 5, fld w 20 6, fld w 26 11, fld w 37 3⟩

/-- The Y-slot opcode map and formats (R136). -/
def rawY (w : Nat) : Option (Instr × List (Nat × Nat)) :=
  match fld w 0 6 with
  | 0 => some (.nop, [(6, 34)])
  | 1 => some (.ldrem (yArgs w), [])
  | 2 => some (.strem (yArgs w), [])
  | 3 => some (.atom (yArgs w), [])
  | 4 => some (.red (yArgs w), [])
  | 5 => some (.scld (yArgs w), [])
  | 6 => some (.scst (yArgs w), [])
  | 7 => some (.scrmw (yArgs w), [])
  | 8 => some (.drain (fld w 12 2) (fld w 6 6), [(14, 26)])
  | 9 => some (.fenced (fld w 12 2) (fld w 6 6), [(14, 26)])
  | 10 => some (.fencep (fld w 6 7) (fld w 13 7), [(20, 20)])
  | 12 => some (.binit (fld w 6 4) (fld w 10 6) (fld w 16 4) (fld w 20 6), [(26, 14)])
  | 13 => some (.barr (fld w 6 4) (fld w 10 6) (fld w 16 4) (fld w 20 6), [(26, 14)])
  | 14 => some (.bwait (fld w 6 4) (fld w 10 6) (fld w 16 4) (fld w 20 6), [(26, 14)])
  | 16 => some (.send (yArgs w), [])
  | 17 => some (.recv (yArgs w), [])
  | 18 => some (.waita (fld w 6 9) (fld w 15 5) (fld w 20 6) (fld w 26 4), [(30, 10)])
  | 19 => some (.monclr (yArgs w), [])
  | 20 => some (.cqpush (fld w 12 2) (fld w 6 6), [(14, 26)])
  | 21 => some (.cqpop (fld w 12 2) (fld w 6 6), [(14, 26)])
  | 22 => some (.osend (yArgs w), [])
  | 23 => some (.ostat (fld w 12 2) (fld w 6 6), [(14, 26)])
  | 32 => some (.atcinv (fld w 12 2) (fld w 6 6), [(14, 26)])
  | 33 => some (.plread (yArgs w), [])
  | 34 => some (.plwrite (yArgs w), [])
  | 35 => some (.fwait (fld w 12 2) (fld w 6 6), [(14, 26)])
  | 36 => some (.mmld (yArgs w), [])
  | 37 => some (.mmst (yArgs w), [])
  | 38 => some (.slogreplay (fld w 12 2) (fld w 6 6), [(14, 26)])
  | _ => none

/-- The V opcodes (R131): the operation of one unit; 0x00 is the pass and has none. -/
def vOp (op : Nat) (a : VArgs) : Option Instr :=
  match op with
  | 1 => some (.vadd a)
  | 2 => some (.vsub a)
  | 3 => some (.vmul a)
  | 4 => some (.vfma a)
  | 5 => some (.vmin a)
  | 6 => some (.vmax a)
  | 7 => some (.vabs a)
  | 8 => some (.vneg a)
  | 9 => some (.vand a)
  | 10 => some (.vor a)
  | 11 => some (.vxor a)
  | 12 => some (.vnot a)
  | 13 => some (.vshl a)
  | 14 => some (.vshr a)
  | 15 => some (.vsar a)
  | 16 => some (.vsel a)
  | 17 => some (.vcmpeq a)
  | 18 => some (.vcmplt a)
  | 19 => some (.vcmple a)
  | 20 => some (.vcmpne a)
  | 21 => some (.vmov a)
  | 32 => some (.vcvt a)
  | 33 => some (.vquant a)
  | 34 => some (.vdeq a)
  | 48 => some (.vexp2 a)
  | 49 => some (.vlog2 a)
  | 50 => some (.vrcp a)
  | 51 => some (.vrsq a)
  | 52 => some (.vgelu a)
  | 64 => some (.vrotr a)
  | 65 => some (.vrotc a)
  | 66 => some (.vbcr a)
  | 67 => some (.vbcc a)
  | 68 => some (.vredr a)
  | 69 => some (.vredc a)
  | 70 => some (.vscanr a)
  | 71 => some (.vscanc a)
  | 80 => some (.vld a)
  | 81 => some (.vst a)
  | 82 => some (.vmovs a)
  | 83 => some (.vsplat a)
  | 84 => some (.viota a)
  | 85 => some (.vrand a)
  | 86 => some (.vpack a)
  | 87 => some (.vunpk a)
  | _ => none

/-- Every field of the list is zero in `w`. -/
def zeros (z : List (Nat × Nat)) (w : Nat) : Bool := z.all fun p => fld w p.1 p.2 == 0

/-- Range check of a command captured by CCOPYF, whose row count goes to 256 (R216). -/
def followRange (i : Instr) : Bool :=
  match i with
  | .mma a => productRange true true 1 a
  | .mmag a => productRange true true 2 a
  | .mrank a => (1 ≤ a.fa && a.fa ≤ 3) || a.fa == 10
  | j => j.inRange

/-- The five parts of one slot's check, in the order of R125. -/
def checkSlot (cx : DecodeCtx) (raw : Option (Instr × List (Nat × Nat))) (accept rng : Instr → Bool) (w : Nat) :
    Except Code Instr :=
  match raw with
  | none => .error .illegalOp
  | some (i, z) =>
    if !accept i then .error .illegalOp
    else if i.privileged && !cx.sys then .error .privilegedOp
    else if cx.house && i.houseRefused then .error .illegalOp
    else if !rng i then .error .illegalOp
    else if !(zeros z w && i.unusedZero) then .error .reservedBits
    else .ok i

/-- Slots S0 and S1 (R126, R127). DEDUCED, log entry 18. -/
def decodeS (cx : DecodeCtx) (s1 : Bool) (w : Nat) : Except Code Instr :=
  checkSlot cx (rawS w) (fun i => !(s1 && i.control)) Instr.inRange w
/-- Slot A (R129). -/
def decodeA (cx : DecodeCtx) (w : Nat) : Except Code Instr := checkSlot cx (rawA w) (fun _ => true) Instr.inRange w
/-- Slot M (R132). -/
def decodeM (cx : DecodeCtx) (w : Nat) : Except Code Instr := checkSlot cx (rawM w) (fun _ => true) Instr.inRange w
/-- Slot K (R133). DEDUCED, log entry 104. -/
def decodeK (cx : DecodeCtx) (w : Nat) : Except Code Instr := checkSlot cx (rawK w) (fun _ => true) Instr.inRange w
/-- Slot C (R134). -/
def decodeC (cx : DecodeCtx) (w m : Nat) : Except Code Instr := checkSlot cx (rawC w m) (fun _ => true) Instr.inRange w
/-- Slot Y (R136). -/
def decodeY (cx : DecodeCtx) (w : Nat) : Except Code Instr := checkSlot cx (rawY w) (fun _ => true) Instr.inRange w

/-- The M content a CCOPYF captures (R135): its decode checks, then that it is MMA, MMAC, MMAG or MRANK. -/
def decodeFollow (m : Nat) : Except Code Instr :=
  if m == 0 then .error .illegalOp
  else match checkSlot ⟨false, true⟩ (rawM m) (fun _ => true) followRange m with
    | .error c => .error c
    | .ok (.mma a) => .ok (.mma a)
    | .ok (.mmac a) => .ok (.mmac a)
    | .ok (.mmag a) => .ok (.mmag a)
    | .ok (.mrank a) => .ok (.mrank a)
    | .ok _ => .error .illegalOp

/-- The operations that run in VA alone (R131). -/
def vAlone (op : Nat) : Bool := (0x30 ≤ op && op ≤ 0x47) || (0x51 ≤ op && op ≤ 0x57)
/-- A conversion (R183-R185). -/
def vConv (op : Nat) : Bool := 0x20 ≤ op && op ≤ 0x22
/-- An operation that defines a use of X (R177). -/
def vOwnsX (op : Nat) : Bool := vConv op || vAlone op || op == 0x50
/-- The unit takes the operation (R131). -/
def vAccept (unit op : Nat) : Bool :=
  if op == 0x04 || op == 0x50 || vAlone op then unit == 0 else if vConv op then unit != 1 else true

/-- The operation reads V[VR]: as the random operand of its rounding, or as VSEL's mask (R65, R177, R182). DEDUCED, log entry 19.
DEDUCED, log entry 147. -/
def Instr.usesVr : Instr → Bool
  | .vadd a => !a.ty
  | .vsub a => !a.ty
  | .vmul a => !a.ty
  | .vfma a => !a.ty
  | .vcvt _ => true
  | .vquant _ => true
  | .vdeq _ => true
  | .vsel _ => true
  | _ => false

/-- The V slot: its operations in cascade order, each with its operands (R130, R131, R176-R193). -/
def decodeV (w : Nat) : Except Code (List Instr) :=
  let opa := fld w 0 8
  let opb := fld w 8 8
  let opc := fld w 16 8
  let vd := fld w 24 11
  let v1 := fld w 35 11
  let v2 := fld w 46 11
  let v3 := fld w 57 11
  let v4 := fld w 68 11
  let vr := fld w 79 11
  let ss := fld w 90 6
  let x := BitVec.ofNat 13 (fld w 99 13)
  let ops := [opa, opb, opc]
  let sel := ops.any (· == 0x10)
  let ld := opa == 0x50
  let mk (unit : Nat) (v : Nat) (ty last : Bool) : VArgs := ⟨unit, ty, vd, v1, v, v3, vr, ss, x, last, ld, sel⟩
  let ia := vOp opa (mk 0 v2 (fld w 96 1 == 1) (opb == 0 && opc == 0))
  let ib := vOp opb (mk 1 v3 (fld w 97 1 == 1) (opc == 0))
  let ic := vOp opc (mk 2 v4 (fld w 98 1 == 1) true)
  let units := (if opa == 0 then [] else [ia]) ++ (if opb == 0 then [] else [ib]) ++ (if opc == 0 then [] else [ic])
  let is := units.filterMap id
  let alone := vAlone opa || (ld && fld w 99 2 != 0)
  -- part 1
  if units.any (·.isNone) || !(vAccept 0 opa && vAccept 1 opb && vAccept 2 opc) || (alone && (opb != 0 || opc != 0)) then
    .error .illegalOp
  else if ops.all (· == 0) then if w == 0 then .ok [] else .error .reservedBits
  -- part 4
  else if (ops.filter vConv).length > 1 || (ops.filter (· == 0x10)).length > 1 || (ld && (sel || ops.any vConv)) ||
      !is.all Instr.inRange then .error .illegalOp
  -- part 5
  else if !is.all Instr.unusedZero || (!is.any Instr.usesVr && vr != 0) || (!ops.any vOwnsX && x != 0) || (opa == 0 && (v2 != 0 || fld w 96 1 != 0)) ||
      (opb == 0 && fld w 97 1 != 0) || (opc == 0 && (v4 != 0 || fld w 98 1 != 0)) ||
      (opa != 0x04 && v3 != 0 && (opb == 0 || opb == 0x07 || opb == 0x08 || opb == 0x0C)) then .error .reservedBits
  else .ok is

/-- A decoded bundle (R120): its header and the instructions of its slots, in slot order. -/
structure Bundle where
  stall : Nat
  pbv : Bool
  pblen : Nat
  pbp : Nat
  pbpat : Nat
  arv : Nat
  arb : Nat
  xr : Nat
  xw : Nat
  ops : List (Slot × Instr)
  deriving DecidableEq, Repr

/-- A decode trap: its code, the slot, and whether the header check failed (R273). -/
structure DecodeTrap where
  code : Code
  slot : Slot
  hdr : Bool
  deriving DecidableEq, Repr

/-- A route field keeps its unused bits zero (R81). -/
def routeOk (r : Nat) : Bool :=
  match r % 4 with
  | 0 => r == 0
  | 1 => r / 4 == 0
  | 2 => fld r 22 10 == 0
  | _ => fld r 14 18 == 0

/-- The header conditions of R26, R81 and R121. -/
def headerOk (w : Nat) : Bool :=
  (if bitOf w 4 then fld w 12 8 / 2 ^ (fld w 5 3 + 1) == 0 else fld w 5 15 == 0) &&
    (fld w 20 8 != 0 || fld w 28 4 == 0) && fld w 504 8 == 0 && routeOk (fld w 32 32) && routeOk (fld w 64 32)

/-- The header of a bundle, with no slot read: all a squashed bundle needs (R26). -/
def headerOf (w : Nat) : Bundle :=
  ⟨fld w 0 4, bitOf w 4, fld w 5 3, fld w 8 4, fld w 12 8, fld w 20 8, fld w 28 4, fld w 32 32, fld w 64 32, []⟩

/-- One slot's contribution to a bundle: nothing for an all-zero slot (R122). -/
def slotOps (s : Slot) (w : Nat) (d : Except Code Instr) : Except DecodeTrap (List (Slot × Instr)) :=
  if w == 0 then .ok [] else match d with
    | .ok i => .ok [(s, i)]
    | .error c => .error ⟨c, s, false⟩

/-- Append what the next slot gives, keeping the first trap (R125). -/
def joinSlots (a : Except DecodeTrap (List (Slot × Instr))) (b : Except DecodeTrap (List (Slot × Instr))) :
    Except DecodeTrap (List (Slot × Instr)) :=
  match a with
  | .error t => .error t
  | .ok l => match b with
    | .error t => .error t
    | .ok m => .ok (l ++ m)

/-- Decode a bundle, with the checks of R125 in its order. DESIGN CHOICE, log entry 114. -/
def decodeBundle (cx : DecodeCtx) (row : Row) : Except DecodeTrap Bundle :=
  let w := row.toNat
  let mw := fld w 328 56
  let cw := fld w 408 56
  let follow := fld cw 0 6 == 2 && !cx.house
  if !headerOk w then .error ⟨.reservedBits, .s0, true⟩
  else if cx.house && (fld w 32 32 != 0 || fld w 64 32 != 0) then .error ⟨.reservedBits, .s0, true⟩
  else if cx.house && fld w 216 112 != 0 then .error ⟨.illegalOp, .v, false⟩
  else if cx.house && mw != 0 then .error ⟨.illegalOp, .m, false⟩
  else if cx.house && fld w 384 24 != 0 then .error ⟨.illegalOp, .k, false⟩
  else
    let s0 := fld w 96 40
    let s1 := fld w 136 40
    let aw := fld w 176 40
    let kw := fld w 384 24
    let yw := fld w 464 40
    let v : Except DecodeTrap (List (Slot × Instr)) := match decodeV (fld w 216 112) with
      | .ok l => .ok (l.map fun i => (Slot.v, i))
      | .error c => .error ⟨c, .v, false⟩
    let m := if follow then .ok [] else slotOps .m mw (decodeM cx mw)
    let c0 := slotOps .c cw (decodeC cx cw mw)
    let c := if follow then joinSlots c0 (match decodeFollow mw with
        | .ok _ => .ok []
        | .error e => .error ⟨e, .c, false⟩) else c0
    let all := [slotOps .s1 s1 (decodeS cx true s1), slotOps .a aw (decodeA cx aw), v, m,
      slotOps .k kw (decodeK cx kw), c, slotOps .y yw (decodeY cx yw)]
    match all.foldl joinSlots (slotOps .s0 s0 (decodeS cx false s0)) with
    | .error t => .error t
    | .ok l => .ok { headerOf w with ops := l }

/-- The word of a slot instruction, written from the formats of R126, R129 and R132-R136; 0 for a NOP, for the V slot
(`encodeV`) and for an event, which has no encoding. -/
def encode : Instr → Nat
  | .add sd sa sb => pack [(8, 1), (6, sd), (6, sa), (6, sb), (6, 0), (4, 0), (4, 0)]
  | .sub sd sa sb => pack [(8, 2), (6, sd), (6, sa), (6, sb), (6, 0), (4, 0), (4, 0)]
  | .mul sd sa sb => pack [(8, 3), (6, sd), (6, sa), (6, sb), (6, 0), (4, 0), (4, 0)]
  | .mulhs sd sa sb => pack [(8, 4), (6, sd), (6, sa), (6, sb), (6, 0), (4, 0), (4, 0)]
  | .mulhu sd sa sb => pack [(8, 5), (6, sd), (6, sa), (6, sb), (6, 0), (4, 0), (4, 0)]
  | .divs sd sa sb => pack [(8, 6), (6, sd), (6, sa), (6, sb), (6, 0), (4, 0), (4, 0)]
  | .divu sd sa sb => pack [(8, 7), (6, sd), (6, sa), (6, sb), (6, 0), (4, 0), (4, 0)]
  | .rems sd sa sb => pack [(8, 8), (6, sd), (6, sa), (6, sb), (6, 0), (4, 0), (4, 0)]
  | .remu sd sa sb => pack [(8, 9), (6, sd), (6, sa), (6, sb), (6, 0), (4, 0), (4, 0)]
  | .and sd sa sb => pack [(8, 10), (6, sd), (6, sa), (6, sb), (6, 0), (4, 0), (4, 0)]
  | .or sd sa sb => pack [(8, 11), (6, sd), (6, sa), (6, sb), (6, 0), (4, 0), (4, 0)]
  | .xor sd sa sb => pack [(8, 12), (6, sd), (6, sa), (6, sb), (6, 0), (4, 0), (4, 0)]
  | .andn sd sa sb => pack [(8, 13), (6, sd), (6, sa), (6, sb), (6, 0), (4, 0), (4, 0)]
  | .shl sd sa sb => pack [(8, 14), (6, sd), (6, sa), (6, sb), (6, 0), (4, 0), (4, 0)]
  | .shr sd sa sb => pack [(8, 15), (6, sd), (6, sa), (6, sb), (6, 0), (4, 0), (4, 0)]
  | .sar sd sa sb => pack [(8, 16), (6, sd), (6, sa), (6, sb), (6, 0), (4, 0), (4, 0)]
  | .rol sd sa sb => pack [(8, 17), (6, sd), (6, sa), (6, sb), (6, 0), (4, 0), (4, 0)]
  | .min sd sa sb => pack [(8, 18), (6, sd), (6, sa), (6, sb), (6, 0), (4, 0), (4, 0)]
  | .max sd sa sb => pack [(8, 19), (6, sd), (6, sa), (6, sb), (6, 0), (4, 0), (4, 0)]
  | .minu sd sa sb => pack [(8, 20), (6, sd), (6, sa), (6, sb), (6, 0), (4, 0), (4, 0)]
  | .maxu sd sa sb => pack [(8, 21), (6, sd), (6, sa), (6, sb), (6, 0), (4, 0), (4, 0)]
  | .clz sd sa => pack [(8, 22), (6, sd), (6, sa), (6, 0), (6, 0), (4, 0), (4, 0)]
  | .popc sd sa => pack [(8, 23), (6, sd), (6, sa), (6, 0), (6, 0), (4, 0), (4, 0)]
  | .sel sd p sa sb => pack [(8, 24), (6, sd), (6, sa), (6, sb), (6, 0), (4, p), (4, 0)]
  | .rotm sd sa sb sc => pack [(8, 25), (6, sd), (6, sa), (6, sb), (6, sc), (4, 0), (4, 0)]
  | .addi sd sa imm => pack [(8, 32), (6, sd), (6, sa), (20, imm.toNat)]
  | .andi sd sa imm => pack [(8, 33), (6, sd), (6, sa), (20, imm.toNat)]
  | .ori sd sa imm => pack [(8, 34), (6, sd), (6, sa), (20, imm.toNat)]
  | .xori sd sa imm => pack [(8, 35), (6, sd), (6, sa), (20, imm.toNat)]
  | .shli sd sa imm => pack [(8, 36), (6, sd), (6, sa), (20, imm.toNat)]
  | .shri sd sa imm => pack [(8, 37), (6, sd), (6, sa), (20, imm.toNat)]
  | .sari sd sa imm => pack [(8, 38), (6, sd), (6, sa), (20, imm.toNat)]
  | .movk sd hw imm => pack [(8, 39), (6, sd), (2, hw), (16, imm.toNat), (8, 0)]
  | .ext sd sa pos len => pack [(8, 40), (6, sd), (6, sa), (6, pos), (6, (len - 1)), (8, 0)]
  | .exts sd sa pos len => pack [(8, 41), (6, sd), (6, sa), (6, pos), (6, (len - 1)), (8, 0)]
  | .ins sd sa pos len => pack [(8, 42), (6, sd), (6, sa), (6, pos), (6, (len - 1)), (8, 0)]
  | .cmp pd cond sa sb => pack [(8, 48), (4, pd), (4, cond), (6, sa), (6, sb), (12, 0)]
  | .cmpi pd cond sa imm => pack [(8, 49), (4, pd), (4, cond), (6, sa), (18, imm.toNat)]
  | .pand pd pa pb na nb => pack [(8, 52), (4, pd), (4, pa), (4, pb), (1, na.toNat), (1, nb.toNat), (18, 0)]
  | .por pd pa pb na nb => pack [(8, 53), (4, pd), (4, pa), (4, pb), (1, na.toNat), (1, nb.toNat), (18, 0)]
  | .pxor pd pa pb na nb => pack [(8, 54), (4, pd), (4, pa), (4, pb), (1, na.toNat), (1, nb.toNat), (18, 0)]
  | .pandn pd pa pb na nb => pack [(8, 55), (4, pd), (4, pa), (4, pb), (1, na.toNat), (1, nb.toNat), (18, 0)]
  | .pset pd val => pack [(8, 56), (4, pd), (8, 0), (1, val.toNat), (19, 0)]
  | .ldw sx tl c w => pack [(8, 64), (6, sx), (9, tl), (5, c), (3, w), (9, 0)]
  | .stw sx tl c w => pack [(8, 65), (6, sx), (9, tl), (5, c), (3, w), (9, 0)]
  | .ldrow sx tl c w => pack [(8, 66), (6, sx), (9, tl), (5, c), (3, w), (9, 0)]
  | .strow sx tl c w => pack [(8, 67), (6, sx), (9, tl), (5, c), (3, w), (9, 0)]
  | .csrr sx csr => pack [(8, 72), (6, sx), (12, csr), (14, 0)]
  | .csrw sx csr => pack [(8, 73), (6, sx), (12, csr), (14, 0)]
  | .csrrp sx csr => pack [(8, 74), (6, sx), (12, csr), (14, 0)]
  | .csrwp sx csr => pack [(8, 75), (6, sx), (12, csr), (14, 0)]
  | .br p t off => pack [(8, 80), (4, p), (1, t.toNat), (27, off.toNat)]
  | .jmp addr => pack [(8, 81), (32, addr)]
  | .jmpr sa => pack [(8, 82), (6, 0), (6, sa), (20, 0)]
  | .call sd off => pack [(8, 83), (6, sd), (26, off.toNat)]
  | .ret sa => pack [(8, 84), (6, 0), (6, sa), (20, 0)]
  | .loop sa len => pack [(8, 85), (6, sa), (16, (len - 1)), (10, 0)]
  | .loopq q len => pack [(8, 86), (2, q), (4, 0), (16, (len - 1)), (10, 0)]
  | .loopswp sa len e => pack [(8, 87), (6, sa), (16, (len - 1)), (3, e), (7, 0)]
  | .lbrk => pack [(8, 88), (32, 0)]
  | .ssend lc => pack [(8, 89), (16, lc), (16, 0)]
  | .trap code => pack [(8, 90), (8, code), (24, 0)]
  | .tret => pack [(8, 91), (32, 0)]
  | .rcbld sd sa => pack [(8, 92), (6, sd), (6, sa), (20, 0)]
  | .aread tl c => pack [(6, 1), (9, tl), (5, c), (1, 0), (19, 0)]
  | .awrite tl c => pack [(6, 2), (9, tl), (5, c), (1, 0), (19, 0)]
  | .arw tr cr tw cw => pack [(6, 3), (9, tr), (5, cr), (9, tw), (5, cw), (6, 0)]
  | .adiag tl c wr => pack [(6, 4), (9, tl), (5, c), (1, wr.toNat), (19, 0)]
  | .tlw tl sx => pack [(6, 8), (9, tl), (6, sx), (19, 0)]
  | .tlr tl sx => pack [(6, 9), (9, tl), (6, sx), (19, 0)]
  | .cset c d sx => pack [(6, 12), (5, c), (4, d), (6, sx), (19, 0)]
  | .cget c d sx => pack [(6, 13), (5, c), (4, d), (6, sx), (19, 0)]
  | .cinc c d imm => pack [(6, 14), (5, c), (4, d), (6, 0), (19, imm.toNat)]
  | .cstep c b => pack [(6, 15), (5, c), (4, 0), (5, b), (1, 0), (19, 0)]
  | .xsolve xw vs pd => pack [(6, 16), (12, xw), (11, vs), (4, pd), (7, 0)]
  | .xload xw tl c => pack [(6, 17), (12, xw), (9, tl), (5, c), (8, 0)]
  | .xsave xw tl c => pack [(6, 18), (12, xw), (9, tl), (5, c), (8, 0)]
  | .mloadb a => pack [(6, 1), (2, a.acc), (2, a.asrc), (4, a.fa), (4, a.fb), (8, a.len), (6, a.epb), (6, a.ss), (11, a.vs), (7, 0)]
  | .mma a => pack [(6, 2), (2, a.acc), (2, a.asrc), (4, a.fa), (4, a.fb), (8, a.len), (6, a.epb), (6, a.ss), (11, a.vs), (7, 0)]
  | .mmac a => pack [(6, 3), (2, a.acc), (2, a.asrc), (4, a.fa), (4, a.fb), (8, a.len), (6, a.epb), (6, a.ss), (11, a.vs), (7, 0)]
  | .mmag a => pack [(6, 4), (2, a.acc), (2, a.asrc), (4, a.fa), (4, a.fb), (8, a.len), (6, a.epb), (6, a.ss), (11, a.vs), (7, 0)]
  | .mrank a => pack [(6, 5), (2, a.acc), (2, a.asrc), (4, a.fa), (4, a.fb), (8, a.len), (6, a.epb), (6, a.ss), (11, a.vs), (7, 0)]
  | .mzero a => pack [(6, 6), (2, a.acc), (2, a.asrc), (4, a.fa), (4, a.fb), (8, a.len), (6, a.epb), (6, a.ss), (11, a.vs), (7, 0)]
  | .mdrain a => pack [(6, 8), (2, a.acc), (2, a.asrc), (4, a.fa), (4, a.fb), (8, a.len), (6, a.epb), (6, a.ss), (11, a.vs), (7, 0)]
  | .mshape a => pack [(6, 9), (2, a.acc), (2, a.asrc), (4, a.fa), (4, a.fb), (8, a.len), (6, a.epb), (6, a.ss), (11, a.vs), (7, 0)]
  | .mstat a => pack [(6, 10), (2, a.acc), (2, a.asrc), (4, a.fa), (4, a.fb), (8, a.len), (6, a.epb), (6, a.ss), (11, a.vs), (7, 0)]
  | .mtest a => pack [(6, 11), (2, a.acc), (2, a.asrc), (4, a.fa), (4, a.fb), (8, a.len), (6, a.epb), (6, a.ss), (11, a.vs), (7, 0)]
  | .kload a => pack [(4, 1), (3, a.lr), (3, a.lc), (4, a.kf), (1, a.dir.toNat), (1, a.rmj.toNat), (6, a.ss), (2, 0)]
  | .ksort a => pack [(4, 2), (3, a.lr), (3, a.lc), (4, a.kf), (1, a.dir.toNat), (1, a.rmj.toNat), (6, a.ss), (2, 0)]
  | .kstep a => pack [(4, 3), (3, a.lr), (3, a.lc), (4, a.kf), (1, a.dir.toNat), (1, a.rmj.toNat), (6, a.ss), (2, 0)]
  | .kmerge a => pack [(4, 4), (3, a.lr), (3, a.lc), (4, a.kf), (1, a.dir.toNat), (1, a.rmj.toNat), (6, a.ss), (2, 0)]
  | .ktopk a => pack [(4, 5), (3, a.lr), (3, a.lc), (4, a.kf), (1, a.dir.toNat), (1, a.rmj.toNat), (6, a.ss), (2, 0)]
  | .kstore a => pack [(4, 6), (3, a.lr), (3, a.lc), (4, a.kf), (1, a.dir.toNat), (1, a.rmj.toNat), (6, a.ss), (2, 0)]
  | .ccopy a => pack [(6, 1), (9, a.tla), (5, a.ca), (9, a.tlb), (5, a.cb), (5, a.cw), (4, a.p1), (4, a.p2), (6, a.ss), (3, a.aux)]
  | .ccopyf a => pack [(6, 2), (9, a.tla), (5, a.ca), (9, a.tlb), (5, a.cb), (5, a.cw), (4, a.p1), (4, a.p2), (6, a.ss), (3, a.aux)]
  | .cgather a => pack [(6, 3), (9, a.tla), (5, a.ca), (9, a.tlb), (5, a.cb), (5, a.cw), (4, a.p1), (4, a.p2), (6, a.ss), (3, a.aux)]
  | .cscatter a => pack [(6, 4), (9, a.tla), (5, a.ca), (9, a.tlb), (5, a.cb), (5, a.cw), (4, a.p1), (4, a.p2), (6, a.ss), (3, a.aux)]
  | .cdispatch a => pack [(6, 5), (9, a.tla), (5, a.ca), (9, a.tlb), (5, a.cb), (5, a.cw), (4, a.p1), (4, a.p2), (6, a.ss), (3, a.aux)]
  | .ccombine a => pack [(6, 6), (9, a.tla), (5, a.ca), (9, a.tlb), (5, a.cb), (5, a.cw), (4, a.p1), (4, a.p2), (6, a.ss), (3, a.aux)]
  | .cfill a => pack [(6, 7), (9, a.tla), (5, a.ca), (9, a.tlb), (5, a.cb), (5, a.cw), (4, a.p1), (4, a.p2), (6, a.ss), (3, a.aux)]
  | .cwait a => pack [(6, 8), (9, a.tla), (5, a.ca), (9, a.tlb), (5, a.cb), (5, a.cw), (4, a.p1), (4, a.p2), (6, a.ss), (3, a.aux)]
  | .cstatus a => pack [(6, 9), (9, a.tla), (5, a.ca), (9, a.tlb), (5, a.cb), (5, a.cw), (4, a.p1), (4, a.p2), (6, a.ss), (3, a.aux)]
  | .migrate a => pack [(6, 16), (9, a.tla), (5, a.ca), (9, a.tlb), (5, a.cb), (5, a.cw), (4, a.p1), (4, a.p2), (6, a.ss), (3, a.aux)]
  | .ldrem a => pack [(6, 1), (9, a.tl), (5, a.c), (6, a.sx), (11, a.arr), (3, a.fn)]
  | .strem a => pack [(6, 2), (9, a.tl), (5, a.c), (6, a.sx), (11, a.arr), (3, a.fn)]
  | .atom a => pack [(6, 3), (9, a.tl), (5, a.c), (6, a.sx), (11, a.arr), (3, a.fn)]
  | .red a => pack [(6, 4), (9, a.tl), (5, a.c), (6, a.sx), (11, a.arr), (3, a.fn)]
  | .scld a => pack [(6, 5), (9, a.tl), (5, a.c), (6, a.sx), (11, a.arr), (3, a.fn)]
  | .scst a => pack [(6, 6), (9, a.tl), (5, a.c), (6, a.sx), (11, a.arr), (3, a.fn)]
  | .scrmw a => pack [(6, 7), (9, a.tl), (5, a.c), (6, a.sx), (11, a.arr), (3, a.fn)]
  | .drain q sx => pack [(6, 8), (6, sx), (2, q), (26, 0)]
  | .fenced q sx => pack [(6, 9), (6, sx), (2, q), (26, 0)]
  | .fencep sm dm => pack [(6, 10), (7, sm), (7, dm), (20, 0)]
  | .binit b sx pd sd => pack [(6, 12), (4, b), (6, sx), (4, pd), (6, sd), (14, 0)]
  | .barr b sx pd sd => pack [(6, 13), (4, b), (6, sx), (4, pd), (6, sd), (14, 0)]
  | .bwait b sx pd sd => pack [(6, 14), (4, b), (6, sx), (4, pd), (6, sd), (14, 0)]
  | .send a => pack [(6, 16), (9, a.tl), (5, a.c), (6, a.sx), (11, a.arr), (3, a.fn)]
  | .recv a => pack [(6, 17), (9, a.tl), (5, a.c), (6, a.sx), (11, a.arr), (3, a.fn)]
  | .waita tl c sx pd => pack [(6, 18), (9, tl), (5, c), (6, sx), (4, pd), (10, 0)]
  | .monclr a => pack [(6, 19), (9, a.tl), (5, a.c), (6, a.sx), (11, a.arr), (3, a.fn)]
  | .cqpush q sx => pack [(6, 20), (6, sx), (2, q), (26, 0)]
  | .cqpop q sx => pack [(6, 21), (6, sx), (2, q), (26, 0)]
  | .osend a => pack [(6, 22), (9, a.tl), (5, a.c), (6, a.sx), (11, a.arr), (3, a.fn)]
  | .ostat q sx => pack [(6, 23), (6, sx), (2, q), (26, 0)]
  | .atcinv q sx => pack [(6, 32), (6, sx), (2, q), (26, 0)]
  | .plread a => pack [(6, 33), (9, a.tl), (5, a.c), (6, a.sx), (11, a.arr), (3, a.fn)]
  | .plwrite a => pack [(6, 34), (9, a.tl), (5, a.c), (6, a.sx), (11, a.arr), (3, a.fn)]
  | .fwait q sx => pack [(6, 35), (6, sx), (2, q), (26, 0)]
  | .mmld a => pack [(6, 36), (9, a.tl), (5, a.c), (6, a.sx), (11, a.arr), (3, a.fn)]
  | .mmst a => pack [(6, 37), (9, a.tl), (5, a.c), (6, a.sx), (11, a.arr), (3, a.fn)]
  | .slogreplay q sx => pack [(6, 38), (6, sx), (2, q), (26, 0)]
  | .mepi a => pack [(6, 7), (2, a.acc), (2, a.asrc), (4, a.fa), (4, a.fb), (8, a.len), (6, a.epb), (6, a.ss), (11, a.vs), (7, 0)]
  | .mepiLd a => pack [(6, 7), (2, a.acc), (2, a.asrc), (4, a.fa), (4, a.fb), (8, a.len), (6, a.epb), (6, a.ss), (11, a.vs), (7, 0)]
  | .kstateRd a => pack [(4, 7), (3, a.lr), (3, a.lc), (4, a.kf), (1, a.dir.toNat), (1, a.rmj.toNat), (6, a.ss), (2, 0)]
  | .kstateWr a => pack [(4, 7), (3, a.lr), (3, a.lc), (4, a.kf), (1, a.dir.toNat), (1, a.rmj.toNat), (6, a.ss), (2, 0)]
  | .nop => 0
  | .xsolveComplete _ => 0
  | .vadd _ => 0
  | .vsub _ => 0
  | .vmul _ => 0
  | .vfma _ => 0
  | .vmin _ => 0
  | .vmax _ => 0
  | .vabs _ => 0
  | .vneg _ => 0
  | .vand _ => 0
  | .vor _ => 0
  | .vxor _ => 0
  | .vnot _ => 0
  | .vshl _ => 0
  | .vshr _ => 0
  | .vsar _ => 0
  | .vsel _ => 0
  | .vcmpeq _ => 0
  | .vcmplt _ => 0
  | .vcmple _ => 0
  | .vcmpne _ => 0
  | .vmov _ => 0
  | .vcvt _ => 0
  | .vquant _ => 0
  | .vdeq _ => 0
  | .vexp2 _ => 0
  | .vlog2 _ => 0
  | .vrcp _ => 0
  | .vrsq _ => 0
  | .vgelu _ => 0
  | .vrotr _ => 0
  | .vrotc _ => 0
  | .vbcr _ => 0
  | .vbcc _ => 0
  | .vredr _ => 0
  | .vredc _ => 0
  | .vscanr _ => 0
  | .vscanc _ => 0
  | .vld _ => 0
  | .vst _ => 0
  | .vmovs _ => 0
  | .vsplat _ => 0
  | .viota _ => 0
  | .vrand _ => 0
  | .vpack _ => 0
  | .vunpk _ => 0
  | .selftestCnt _ => 0
  | .followOnStart _ => 0
  | .followOnRetire _ => 0
  | .nodeLaunch _ _ => 0
  | .copyRowArrival _ => 0
  | .nodeRetire _ _ => 0
  | .wheelPositionIssue _ => 0
  | .bwaitTimeout _ => 0
  | .waitaTimeout _ => 0
  | .monitorTrigger _ _ => 0
  | .fwaitTimeout _ => 0
  | .firmwareEvent _ => 0
  | .landingArrival _ => 0
  | .namedCycleHold _ => 0
  | .packageBarrierComplete _ => 0
  | .commPhaseEnd _ => 0
  | .redWindowExpire _ _ => 0
  | .flitReceive _ _ _ => 0
  | .msgRd _ => 0
  | .msgWr _ => 0
  | .msgAt _ => 0
  | .msgRs _ => 0
  | .msgXf _ => 0
  | .msgMg _ => 0
  | .routeNotice _ _ => 0
  | .discover => 0
  | .walkerResolve _ => 0
  | .start _ _ => 0
  | .svDrop _ _ => 0
  | .launchPlace _ => 0
  | .completionWord _ => 0
  | .sliceEnd _ => 0
  | .preemptionPoint _ => 0
  | .contextRestore _ => 0
  | .holdTimeout _ => 0
  | .shadowEntry _ => 0
  | .sideLogReplay _ _ => 0
  | .atsResponse _ _ _ => 0
  | .atsInvalidation _ _ => 0
  | .pageRequestGrant _ _ _ => 0
  | .hostMemoryAccess _ _ _ => 0
  | .semRead _ => 0
  | .semWrite _ _ => 0
  | .rcbsync _ _ => 0
  | .controlPortLinkReset _ => 0
  | .packageCsrUpdate _ _ _ => 0
  | .directoryHeaderWrite _ => 0
  | .directoryRootWrite _ _ => 0
  | .sweeperVisit _ => 0
  | .heatWriteback _ _ => 0
  | .cloveStart _ _ => 0
  | .migrationRoundEnd _ _ => 0
  | .freezeFinalCopy _ _ => 0
  | .migrationCommit _ _ => 0
  | .freezeTimeout _ _ => 0
  | .dieReset _ => 0
  | .packageReset => 0
  | .rstctlDgo _ _ => 0
  | .rstctlPgo _ => 0
  | .bringup => 0
  | .attreq _ _ => 0
  | .attestationReport _ => 0
  | .linkDown _ _ => 0
  | .opticalEpoch => 0
  | .opticalSlotOpen _ => 0
  | .opticalSlotClose _ => 0
  | .routerEntryWrite _ _ _ => 0
  | .slotTableWrite _ _ => 0
  | .tempSample => 0
  | .levelChangeApply _ _ => 0
  | .positionWithhold _ _ => 0
  | .positionReturn _ _ => 0
  | .hbmCrcRetry _ _ => 0
  | .liveRepairComplete _ _ _ _ => 0
  | .pcselWrite _ _ _ => 0
  | .patctlGo _ _ _ => 0
  | .patternRunDone _ _ => 0
  | .eyectlGo _ _ _ => 0
  | .eyeCaptureDone _ _ => 0
  | .repairWrite _ _ _ => 0
  | .powerWindowEnd _ => 0
  | .governorHoldEnd _ => 0
  | .registerWrite _ _ _ => 0
  | .wheelMarker _ => 0
  | .opticalReceive _ => 0
  | .junctionCattrip _ => 0
  | .debuggerHalt _ _ => 0
  | .powerGating _ _ => 0

/-- The opcode of a V operation (R131); 0 for anything else. -/
def vOpcode : Instr → Nat
  | .nop => 0
  | .add _ _ _ => 0
  | .sub _ _ _ => 0
  | .mul _ _ _ => 0
  | .mulhs _ _ _ => 0
  | .mulhu _ _ _ => 0
  | .divs _ _ _ => 0
  | .divu _ _ _ => 0
  | .rems _ _ _ => 0
  | .remu _ _ _ => 0
  | .and _ _ _ => 0
  | .or _ _ _ => 0
  | .xor _ _ _ => 0
  | .andn _ _ _ => 0
  | .shl _ _ _ => 0
  | .shr _ _ _ => 0
  | .sar _ _ _ => 0
  | .rol _ _ _ => 0
  | .min _ _ _ => 0
  | .max _ _ _ => 0
  | .minu _ _ _ => 0
  | .maxu _ _ _ => 0
  | .clz _ _ => 0
  | .popc _ _ => 0
  | .sel _ _ _ _ => 0
  | .rotm _ _ _ _ => 0
  | .addi _ _ _ => 0
  | .andi _ _ _ => 0
  | .ori _ _ _ => 0
  | .xori _ _ _ => 0
  | .shli _ _ _ => 0
  | .shri _ _ _ => 0
  | .sari _ _ _ => 0
  | .movk _ _ _ => 0
  | .ext _ _ _ _ => 0
  | .exts _ _ _ _ => 0
  | .ins _ _ _ _ => 0
  | .cmp _ _ _ _ => 0
  | .cmpi _ _ _ _ => 0
  | .pand _ _ _ _ _ => 0
  | .por _ _ _ _ _ => 0
  | .pxor _ _ _ _ _ => 0
  | .pandn _ _ _ _ _ => 0
  | .pset _ _ => 0
  | .ldw _ _ _ _ => 0
  | .stw _ _ _ _ => 0
  | .ldrow _ _ _ _ => 0
  | .strow _ _ _ _ => 0
  | .csrr _ _ => 0
  | .csrw _ _ => 0
  | .csrrp _ _ => 0
  | .csrwp _ _ => 0
  | .br _ _ _ => 0
  | .jmp _ => 0
  | .jmpr _ => 0
  | .call _ _ => 0
  | .ret _ => 0
  | .loop _ _ => 0
  | .loopq _ _ => 0
  | .loopswp _ _ _ => 0
  | .lbrk => 0
  | .ssend _ => 0
  | .trap _ => 0
  | .tret => 0
  | .rcbld _ _ => 0
  | .aread _ _ => 0
  | .awrite _ _ => 0
  | .arw _ _ _ _ => 0
  | .adiag _ _ _ => 0
  | .tlw _ _ => 0
  | .tlr _ _ => 0
  | .cset _ _ _ => 0
  | .cget _ _ _ => 0
  | .cinc _ _ _ => 0
  | .cstep _ _ => 0
  | .xsolve _ _ _ => 0
  | .xsolveComplete _ => 0
  | .xload _ _ _ => 0
  | .xsave _ _ _ => 0
  | .vadd _ => 1
  | .vsub _ => 2
  | .vmul _ => 3
  | .vfma _ => 4
  | .vmin _ => 5
  | .vmax _ => 6
  | .vabs _ => 7
  | .vneg _ => 8
  | .vand _ => 9
  | .vor _ => 10
  | .vxor _ => 11
  | .vnot _ => 12
  | .vshl _ => 13
  | .vshr _ => 14
  | .vsar _ => 15
  | .vsel _ => 16
  | .vcmpeq _ => 17
  | .vcmplt _ => 18
  | .vcmple _ => 19
  | .vcmpne _ => 20
  | .vmov _ => 21
  | .vcvt _ => 32
  | .vquant _ => 33
  | .vdeq _ => 34
  | .vexp2 _ => 48
  | .vlog2 _ => 49
  | .vrcp _ => 50
  | .vrsq _ => 51
  | .vgelu _ => 52
  | .vrotr _ => 64
  | .vrotc _ => 65
  | .vbcr _ => 66
  | .vbcc _ => 67
  | .vredr _ => 68
  | .vredc _ => 69
  | .vscanr _ => 70
  | .vscanc _ => 71
  | .vld _ => 80
  | .vst _ => 81
  | .vmovs _ => 82
  | .vsplat _ => 83
  | .viota _ => 84
  | .vrand _ => 85
  | .vpack _ => 86
  | .vunpk _ => 87
  | .mloadb _ => 0
  | .mma _ => 0
  | .mmag _ => 0
  | .mmac _ => 0
  | .mrank _ => 0
  | .mzero _ => 0
  | .mepi _ => 0
  | .mepiLd _ => 0
  | .mdrain _ => 0
  | .mshape _ => 0
  | .mstat _ => 0
  | .mtest _ => 0
  | .selftestCnt _ => 0
  | .followOnStart _ => 0
  | .followOnRetire _ => 0
  | .kload _ => 0
  | .ksort _ => 0
  | .kstep _ => 0
  | .kmerge _ => 0
  | .ktopk _ => 0
  | .kstore _ => 0
  | .kstateRd _ => 0
  | .kstateWr _ => 0
  | .ccopy _ => 0
  | .ccopyf _ => 0
  | .cfill _ => 0
  | .cgather _ => 0
  | .cscatter _ => 0
  | .cdispatch _ => 0
  | .ccombine _ => 0
  | .cwait _ => 0
  | .cstatus _ => 0
  | .migrate _ => 0
  | .nodeLaunch _ _ => 0
  | .copyRowArrival _ => 0
  | .nodeRetire _ _ => 0
  | .ldrem _ => 0
  | .strem _ => 0
  | .atom _ => 0
  | .scrmw _ => 0
  | .red _ => 0
  | .scld _ => 0
  | .scst _ => 0
  | .wheelPositionIssue _ => 0
  | .drain _ _ => 0
  | .fenced _ _ => 0
  | .fencep _ _ => 0
  | .binit _ _ _ _ => 0
  | .barr _ _ _ _ => 0
  | .bwait _ _ _ _ => 0
  | .bwaitTimeout _ => 0
  | .send _ => 0
  | .recv _ => 0
  | .waita _ _ _ _ => 0
  | .waitaTimeout _ => 0
  | .monitorTrigger _ _ => 0
  | .monclr _ => 0
  | .cqpush _ _ => 0
  | .cqpop _ _ => 0
  | .osend _ => 0
  | .ostat _ _ => 0
  | .atcinv _ _ => 0
  | .plread _ => 0
  | .plwrite _ => 0
  | .fwait _ _ => 0
  | .fwaitTimeout _ => 0
  | .firmwareEvent _ => 0
  | .mmld _ => 0
  | .mmst _ => 0
  | .slogreplay _ _ => 0
  | .landingArrival _ => 0
  | .namedCycleHold _ => 0
  | .packageBarrierComplete _ => 0
  | .commPhaseEnd _ => 0
  | .redWindowExpire _ _ => 0
  | .flitReceive _ _ _ => 0
  | .msgRd _ => 0
  | .msgWr _ => 0
  | .msgAt _ => 0
  | .msgRs _ => 0
  | .msgXf _ => 0
  | .msgMg _ => 0
  | .routeNotice _ _ => 0
  | .discover => 0
  | .walkerResolve _ => 0
  | .start _ _ => 0
  | .svDrop _ _ => 0
  | .launchPlace _ => 0
  | .completionWord _ => 0
  | .sliceEnd _ => 0
  | .preemptionPoint _ => 0
  | .contextRestore _ => 0
  | .holdTimeout _ => 0
  | .shadowEntry _ => 0
  | .sideLogReplay _ _ => 0
  | .atsResponse _ _ _ => 0
  | .atsInvalidation _ _ => 0
  | .pageRequestGrant _ _ _ => 0
  | .hostMemoryAccess _ _ _ => 0
  | .semRead _ => 0
  | .semWrite _ _ => 0
  | .rcbsync _ _ => 0
  | .controlPortLinkReset _ => 0
  | .packageCsrUpdate _ _ _ => 0
  | .directoryHeaderWrite _ => 0
  | .directoryRootWrite _ _ => 0
  | .sweeperVisit _ => 0
  | .heatWriteback _ _ => 0
  | .cloveStart _ _ => 0
  | .migrationRoundEnd _ _ => 0
  | .freezeFinalCopy _ _ => 0
  | .migrationCommit _ _ => 0
  | .freezeTimeout _ _ => 0
  | .dieReset _ => 0
  | .packageReset => 0
  | .rstctlDgo _ _ => 0
  | .rstctlPgo _ => 0
  | .bringup => 0
  | .attreq _ _ => 0
  | .attestationReport _ => 0
  | .linkDown _ _ => 0
  | .opticalEpoch => 0
  | .opticalSlotOpen _ => 0
  | .opticalSlotClose _ => 0
  | .routerEntryWrite _ _ _ => 0
  | .slotTableWrite _ _ => 0
  | .tempSample => 0
  | .levelChangeApply _ _ => 0
  | .positionWithhold _ _ => 0
  | .positionReturn _ _ => 0
  | .hbmCrcRetry _ _ => 0
  | .liveRepairComplete _ _ _ _ => 0
  | .pcselWrite _ _ _ => 0
  | .patctlGo _ _ _ => 0
  | .patternRunDone _ _ => 0
  | .eyectlGo _ _ _ => 0
  | .eyeCaptureDone _ _ => 0
  | .repairWrite _ _ _ => 0
  | .powerWindowEnd _ => 0
  | .governorHoldEnd _ => 0
  | .registerWrite _ _ _ => 0
  | .wheelMarker _ => 0
  | .opticalReceive _ => 0
  | .junctionCattrip _ => 0
  | .debuggerHalt _ _ => 0
  | .powerGating _ _ => 0

/-- The operands of a V operation. -/
def Instr.vargs : Instr → Option VArgs
  | .nop => none
  | .add _ _ _ => none
  | .sub _ _ _ => none
  | .mul _ _ _ => none
  | .mulhs _ _ _ => none
  | .mulhu _ _ _ => none
  | .divs _ _ _ => none
  | .divu _ _ _ => none
  | .rems _ _ _ => none
  | .remu _ _ _ => none
  | .and _ _ _ => none
  | .or _ _ _ => none
  | .xor _ _ _ => none
  | .andn _ _ _ => none
  | .shl _ _ _ => none
  | .shr _ _ _ => none
  | .sar _ _ _ => none
  | .rol _ _ _ => none
  | .min _ _ _ => none
  | .max _ _ _ => none
  | .minu _ _ _ => none
  | .maxu _ _ _ => none
  | .clz _ _ => none
  | .popc _ _ => none
  | .sel _ _ _ _ => none
  | .rotm _ _ _ _ => none
  | .addi _ _ _ => none
  | .andi _ _ _ => none
  | .ori _ _ _ => none
  | .xori _ _ _ => none
  | .shli _ _ _ => none
  | .shri _ _ _ => none
  | .sari _ _ _ => none
  | .movk _ _ _ => none
  | .ext _ _ _ _ => none
  | .exts _ _ _ _ => none
  | .ins _ _ _ _ => none
  | .cmp _ _ _ _ => none
  | .cmpi _ _ _ _ => none
  | .pand _ _ _ _ _ => none
  | .por _ _ _ _ _ => none
  | .pxor _ _ _ _ _ => none
  | .pandn _ _ _ _ _ => none
  | .pset _ _ => none
  | .ldw _ _ _ _ => none
  | .stw _ _ _ _ => none
  | .ldrow _ _ _ _ => none
  | .strow _ _ _ _ => none
  | .csrr _ _ => none
  | .csrw _ _ => none
  | .csrrp _ _ => none
  | .csrwp _ _ => none
  | .br _ _ _ => none
  | .jmp _ => none
  | .jmpr _ => none
  | .call _ _ => none
  | .ret _ => none
  | .loop _ _ => none
  | .loopq _ _ => none
  | .loopswp _ _ _ => none
  | .lbrk => none
  | .ssend _ => none
  | .trap _ => none
  | .tret => none
  | .rcbld _ _ => none
  | .aread _ _ => none
  | .awrite _ _ => none
  | .arw _ _ _ _ => none
  | .adiag _ _ _ => none
  | .tlw _ _ => none
  | .tlr _ _ => none
  | .cset _ _ _ => none
  | .cget _ _ _ => none
  | .cinc _ _ _ => none
  | .cstep _ _ => none
  | .xsolve _ _ _ => none
  | .xsolveComplete _ => none
  | .xload _ _ _ => none
  | .xsave _ _ _ => none
  | .vadd a => some a
  | .vsub a => some a
  | .vmul a => some a
  | .vfma a => some a
  | .vmin a => some a
  | .vmax a => some a
  | .vabs a => some a
  | .vneg a => some a
  | .vand a => some a
  | .vor a => some a
  | .vxor a => some a
  | .vnot a => some a
  | .vshl a => some a
  | .vshr a => some a
  | .vsar a => some a
  | .vsel a => some a
  | .vcmpeq a => some a
  | .vcmplt a => some a
  | .vcmple a => some a
  | .vcmpne a => some a
  | .vmov a => some a
  | .vcvt a => some a
  | .vquant a => some a
  | .vdeq a => some a
  | .vexp2 a => some a
  | .vlog2 a => some a
  | .vrcp a => some a
  | .vrsq a => some a
  | .vgelu a => some a
  | .vrotr a => some a
  | .vrotc a => some a
  | .vbcr a => some a
  | .vbcc a => some a
  | .vredr a => some a
  | .vredc a => some a
  | .vscanr a => some a
  | .vscanc a => some a
  | .vld a => some a
  | .vst a => some a
  | .vmovs a => some a
  | .vsplat a => some a
  | .viota a => some a
  | .vrand a => some a
  | .vpack a => some a
  | .vunpk a => some a
  | .mloadb _ => none
  | .mma _ => none
  | .mmag _ => none
  | .mmac _ => none
  | .mrank _ => none
  | .mzero _ => none
  | .mepi _ => none
  | .mepiLd _ => none
  | .mdrain _ => none
  | .mshape _ => none
  | .mstat _ => none
  | .mtest _ => none
  | .selftestCnt _ => none
  | .followOnStart _ => none
  | .followOnRetire _ => none
  | .kload _ => none
  | .ksort _ => none
  | .kstep _ => none
  | .kmerge _ => none
  | .ktopk _ => none
  | .kstore _ => none
  | .kstateRd _ => none
  | .kstateWr _ => none
  | .ccopy _ => none
  | .ccopyf _ => none
  | .cfill _ => none
  | .cgather _ => none
  | .cscatter _ => none
  | .cdispatch _ => none
  | .ccombine _ => none
  | .cwait _ => none
  | .cstatus _ => none
  | .migrate _ => none
  | .nodeLaunch _ _ => none
  | .copyRowArrival _ => none
  | .nodeRetire _ _ => none
  | .ldrem _ => none
  | .strem _ => none
  | .atom _ => none
  | .scrmw _ => none
  | .red _ => none
  | .scld _ => none
  | .scst _ => none
  | .wheelPositionIssue _ => none
  | .drain _ _ => none
  | .fenced _ _ => none
  | .fencep _ _ => none
  | .binit _ _ _ _ => none
  | .barr _ _ _ _ => none
  | .bwait _ _ _ _ => none
  | .bwaitTimeout _ => none
  | .send _ => none
  | .recv _ => none
  | .waita _ _ _ _ => none
  | .waitaTimeout _ => none
  | .monitorTrigger _ _ => none
  | .monclr _ => none
  | .cqpush _ _ => none
  | .cqpop _ _ => none
  | .osend _ => none
  | .ostat _ _ => none
  | .atcinv _ _ => none
  | .plread _ => none
  | .plwrite _ => none
  | .fwait _ _ => none
  | .fwaitTimeout _ => none
  | .firmwareEvent _ => none
  | .mmld _ => none
  | .mmst _ => none
  | .slogreplay _ _ => none
  | .landingArrival _ => none
  | .namedCycleHold _ => none
  | .packageBarrierComplete _ => none
  | .commPhaseEnd _ => none
  | .redWindowExpire _ _ => none
  | .flitReceive _ _ _ => none
  | .msgRd _ => none
  | .msgWr _ => none
  | .msgAt _ => none
  | .msgRs _ => none
  | .msgXf _ => none
  | .msgMg _ => none
  | .routeNotice _ _ => none
  | .discover => none
  | .walkerResolve _ => none
  | .start _ _ => none
  | .svDrop _ _ => none
  | .launchPlace _ => none
  | .completionWord _ => none
  | .sliceEnd _ => none
  | .preemptionPoint _ => none
  | .contextRestore _ => none
  | .holdTimeout _ => none
  | .shadowEntry _ => none
  | .sideLogReplay _ _ => none
  | .atsResponse _ _ _ => none
  | .atsInvalidation _ _ => none
  | .pageRequestGrant _ _ _ => none
  | .hostMemoryAccess _ _ _ => none
  | .semRead _ => none
  | .semWrite _ _ => none
  | .rcbsync _ _ => none
  | .controlPortLinkReset _ => none
  | .packageCsrUpdate _ _ _ => none
  | .directoryHeaderWrite _ => none
  | .directoryRootWrite _ _ => none
  | .sweeperVisit _ => none
  | .heatWriteback _ _ => none
  | .cloveStart _ _ => none
  | .migrationRoundEnd _ _ => none
  | .freezeFinalCopy _ _ => none
  | .migrationCommit _ _ => none
  | .freezeTimeout _ _ => none
  | .dieReset _ => none
  | .packageReset => none
  | .rstctlDgo _ _ => none
  | .rstctlPgo _ => none
  | .bringup => none
  | .attreq _ _ => none
  | .attestationReport _ => none
  | .linkDown _ _ => none
  | .opticalEpoch => none
  | .opticalSlotOpen _ => none
  | .opticalSlotClose _ => none
  | .routerEntryWrite _ _ _ => none
  | .slotTableWrite _ _ => none
  | .tempSample => none
  | .levelChangeApply _ _ => none
  | .positionWithhold _ _ => none
  | .positionReturn _ _ => none
  | .hbmCrcRetry _ _ => none
  | .liveRepairComplete _ _ _ _ => none
  | .pcselWrite _ _ _ => none
  | .patctlGo _ _ _ => none
  | .patternRunDone _ _ => none
  | .eyectlGo _ _ _ => none
  | .eyeCaptureDone _ _ => none
  | .repairWrite _ _ _ => none
  | .powerWindowEnd _ => none
  | .governorHoldEnd _ => none
  | .registerWrite _ _ _ => none
  | .wheelMarker _ => none
  | .opticalReceive _ => none
  | .junctionCattrip _ => none
  | .debuggerHalt _ _ => none
  | .powerGating _ _ => none

/-- Where an encoded instruction's slot starts in the bundle (R120). -/
def Slot.start : Slot → Nat
  | .s0 => 96 | .s1 => 136 | .a => 176 | .v => 216 | .m => 328 | .k => 384 | .c => 408 | .y => 464

/-- The V slot's word of a cascade of at most one operation per unit (R130), from its operations. -/
def encodeV (is : List Instr) : Nat :=
  let at' (u : Nat) : Option (Nat × VArgs) :=
    (is.filterMap fun i => i.vargs.map fun a => (vOpcode i, a)).find? fun p => p.2.unit == u
  let opc (u : Nat) := ((at' u).map (·.1)).getD 0
  let ty (u : Nat) := ((at' u).map (·.2.ty.toNat)).getD 0
  let src (u : Nat) := ((at' u).map (·.2.v2)).getD 0
  match is.filterMap Instr.vargs with
  | [] => 0
  | a :: _ =>
    pack [(8, opc 0), (8, opc 1), (8, opc 2), (11, a.vd), (11, a.v1), (11, src 0), (11, a.v3), (11, src 2), (11, a.vr),
      (6, a.ss), (1, ty 0), (1, ty 1), (1, ty 2), (13, a.x.toNat)]

/-- A cascade that the V slot can hold, from its operations (R122, R123, R130, R131): one word's fields, at most one operation per unit, and
what each unit takes. -/
def cascadeWf (is : List Instr) : Bool :=
  let ops := is.filterMap fun i => i.vargs.map fun a => (vOpcode i, a)
  let op (u : Nat) : Nat := ((ops.find? fun p => p.2.unit == u).map (·.1)).getD 0
  let codes := ops.map (·.1)
  match ops with
  | [] => is.isEmpty
  | (_, h) :: _ =>
    is.all Instr.wf && is.length == ops.length && decide ((ops.map (·.2.unit)).Pairwise (· < ·)) &&
    ops.map (·.2.last) == List.replicate (ops.length - 1) false ++ [true] &&
    (ops.all fun p => vAccept p.2.unit p.1 && p.2.vd == h.vd && p.2.v1 == h.v1 && p.2.v3 == h.v3 && p.2.vr == h.vr && p.2.ss == h.ss &&
      p.2.x == h.x && (p.2.unit != 1 || p.2.v2 == h.v3) && p.2.loaded == (op 0 == 0x50) && p.2.hasSel == codes.contains 0x10) &&
    (!(vAlone (op 0) || (op 0 == 0x50 && h.xf 0 2 != 0)) || ops.length == 1) &&
    (codes.filter vConv).length ≤ 1 && (codes.filter (· == 0x10)).length ≤ 1 &&
    (op 0 != 0x50 || !(codes.contains 0x10 || codes.any vConv)) &&
    (is.any Instr.usesVr || h.vr == 0) && (codes.any vOwnsX || h.x == 0) &&
    (op 0 == 0x04 || h.v3 == 0 || !(op 1 == 0 || op 1 == 0x07 || op 1 == 0x08 || op 1 == 0x0C))

/-- The word of one instruction in its own slot: of a V operation alone in its cascade, else `encode`. -/
def slotWord (i : Instr) : Nat := if i.vargs.isSome then encodeV [i] else encode i

/-- A bundle that holds one instruction, no header and no other slot; CCOPYF brings the M word it captures. -/
def bundleOf (i : Instr) : Row :=
  match i.slot with
  | none => 0
  | some s =>
    BitVec.ofNat 512 (slotWord i * 2 ^ s.start + (match i with
      | .ccopyf a => a.follow * 2 ^ Slot.m.start
      | _ => 0))

/-- Lay a table word out as the hardware stores it: a slot word in its slot of an otherwise empty bundle (R120), or a whole
bundle. The table numbers the bits of the K slot's word (24 bits); the other widths name the slot that has them. -/
def tableBundle (nbits w : Nat) : Row :=
  if nbits == 24 then BitVec.ofNat 512 (w % 2 ^ 24 * 2 ^ 384)
  else if nbits == 40 then BitVec.ofNat 512 (w % 2 ^ 40 * 2 ^ 96)
  else if nbits == 56 then BitVec.ofNat 512 (w % 2 ^ 56 * 2 ^ 328)
  else if nbits == 112 then BitVec.ofNat 512 (w % 2 ^ 112 * 2 ^ 216)
  else BitVec.ofNat 512 w

/-- The instruction the decoder reads from a table word: the first operation of the bundle it makes. -/
def decodeTableWord (nbits w : Nat) : Option Instr :=
  match decodeBundle ⟨false, true⟩ (tableBundle nbits w) with
  | .error _ => none
  | .ok b => match b.ops with
    | [] => some .nop
    | p :: _ => some p.2

end Sys2Proof
end

