-- ==== Sys2Proof/Machine/State.lean ====
section
/-!
DEFINITION. The state of the package: every register, memory, queue and engine the spec names, as plain data, and the state
after reset. `Chip` is everything but the bytes of memory.
-/

namespace Sys2Proof.Machine

/-- Why the machine stops. -/
inductive Fault where
  /-- Raised by `step` and `exec` for an event that names a die the package does not have (R4: ids 12-15 are reserved).
  Safe: no such event happens on the part. -/
  | noSuchDie (die : Nat)
  deriving DecidableEq, Repr

/-- Why an instruction has no meaning. -/
inductive Refusal where
  /-- Raised by a refused arm of `exec` only: the instruction is not modelled. Safe: nothing is claimed of it. -/
  | notModelled (mnemonic : String)
  deriving DecidableEq, Repr

/-- All byte storage of the package (R75, R11, R15, R281, R386): one list of (address, byte) in canonical form; an unlisted
address reads 0 (DESIGN CHOICE, log entry 6). `memAddr` numbers the address. -/
abbrev Memory := List Host.Cell

/-- Rounding modes of FPCTL.RM (R63). -/
inductive RMode where
  | rne | rtz | rup | rdn | rna | sr
  deriving DecidableEq, Repr

/-- FPCTL (R63): `sr4` is SRBITS - 4, so SRBITS lies in 4-16; `flags` holds NV OF UF NX FMT ACCSAT ISAT GMISS, bit 0 up. -/
structure Fpctl where
  rm : RMode := .rne
  ifz : Bool := false
  ofz : Bool := false
  sr4 : Fin 13 := 4
  flags : BitVec 8 := 0
  deriving DecidableEq, Repr

/-- Kinds of loop (R30, R339). -/
inductive LoopKind where
  | count | queue | swp
  deriving DecidableEq, Repr

/-- A level of the loop stack (R30): body addresses, index of the pass, passes still to start, drain passes among them. -/
structure Level where
  first : Nat
  last : Nat
  kind : LoopKind
  index : Nat
  remain : Nat
  drain : Nat
  /-- T - e: the iterations, for p8 of a software-pipelined loop (R35). -/
  iters : Nat
  deriving DecidableEq, Repr

/-- A predicate block in force (R26): the pattern bits still to come and the sampled value. -/
structure PBlock where
  pat : List Bool
  val : Bool
  deriving DecidableEq, Repr

/-- A register, row or CSR that a result can be pending for (R27-R29). -/
inductive Dest where
  | s (n : Nat) | p (n : Nat) | c (n : Nat) | tl (n : Nat) | v (n : Nat) | xw (n : Nat) | ep (n : Nat)
  | acc (a m : Nat) | csr (n : Nat) | wall (bank row : Nat) | other
  deriving DecidableEq, Repr

/-- The tile in array order (R194, R197, R210): cell rows, the launch whose undefined cells the unlisted rows are (R274; none:
zero), block scales, format and fusing mode. -/
structure MTile where
  rows : SMap TileRow := []
  gen : Option Nat := none
  scales : SMap (BitVec 2048) := []
  tfmt : Nat := 0
  km : Nat := 15
  deriving DecidableEq, Repr

/-- The array commands a follow-on may be, and the ones that read A rows (R135). -/
inductive MOp where
  | mma | mmag | mmac | mrank
  deriving DecidableEq, Repr

/-- A product or ranking command as captured at issue (R66, R198, R201-R204). -/
structure MCap where
  op : MOp
  acc : Nat
  asrc : Nat
  fa : Nat
  row0 : Nat
  r0 : Nat
  n : Nat
  sca : Bool
  /-- MRANK: the number of scores. -/
  e : Nat
  /-- MMAG: off[0] to off[G]. -/
  offs : List Int
  /-- The A scale registers. -/
  vecs : List Vec
  fp : Fpctl
  tile : MTile
  deriving DecidableEq, Repr

/-- A result in flight (R27): what it writes when it lands. -/
inductive Land where
  | s (n : Nat) (x : Word)
  | p (n : Nat) (b : Bool)
  | c (n : Nat) (x : Coord)
  | tl (n : Nat) (x : Rec)
  | v (n : Nat) (x : Vec)
  | xw (n : Nat) (x : Route)
  /-- XLOAD reads its row k (R175): entry, k, bits read so far, the rows (bank, row) still to read. -/
  | xread (n k : Nat) (x : Route) (rows : List (Nat × Nat))
  | ep (n : Nat) (x : EpBlock)
  /-- CSRW or CSRWP of a per-die CSR (R167). -/
  | csr (n : Nat) (x : Word)
  /-- FPCTL flags of an operation that retires (R67). -/
  | flags (f : BitVec 8)
  | binit (b target : Nat)
  | barr (b n : Nat)
  /-- A count lands in a queue (R267). -/
  | push (q : Nat) (x : BitVec 32)
  /-- MONCLR frees a monitor, or all of them (R266). -/
  | monclr (row : Option Nat)
  /-- A partial sum row joins an accumulator row (R71, R199): floating, or 128-bit integers; `ret` is the
  command's retire cycle. -/
  | accAdd (a m : Nat) (row : AccRow) (int : Bool) (ret : Nat)
  /-- MRANK replaces the first E elements of a row (R204). -/
  | accRank (a m : Nat) (row : AccRow) (e : Nat)
  /-- MZERO clears a set, which takes the mode (R205). -/
  | accClear (a : Nat) (int : Bool)
  /-- MDRAIN zeroes a row (R208). -/
  | accZero (a m : Nat)
  /-- MMAC reads row a of its source and forms its sums (R203). -/
  | macRead (c : MCap) (a : Nat) (ret : Nat)
  /-- KLOAD writes the cells (R226): base, shape, format and the rows by port. -/
  | kload (b lr lc kf : Nat) (rows : List (Nat × Row))
  /-- KSTORE reads the cells and drives the wall (R227): base, RMJ, DIR, write route, named rows. -/
  | kstore (b : Nat) (rmj dir : Bool) (xw : Nat) (route : Route) (names : List (Nat × Nat))
  /-- KSTATE.WR (R230). -/
  | kstate (x : Word)
  /-- An MTEST result (R213). -/
  | mtest (reg : Nat) (fail : BitVec 17)
  deriving DecidableEq, Repr

/-- A pending register landing: the program cycles of its landing and of its issue. -/
structure Pend where
  due : Nat
  iss : Nat
  land : Land
  deriving DecidableEq, Repr

/-- A pending row write of the bank wall (R82, R96): cycle, issue, bank, row, byte enables, data, access path. -/
structure WPend where
  due : Nat
  iss : Nat
  bank : Nat
  row : Nat
  be : BitVec 64
  data : Row
  path : Nat
  /-- The landing-buffer entry of the RECV whose row this is (R263). -/
  recv : Option Nat := none
  deriving DecidableEq, Repr

/-- A bank port reserved for a cycle (R163). -/
structure Resv where
  cyc : Nat
  bank : Nat
  row : Nat
  write : Bool
  /-- The instruction is an XLOAD or an XSAVE (R175). -/
  route : Bool
  deriving DecidableEq, Repr

/-- What a die holds for (R42). -/
inductive Wait where
  /-- FENCEP, FENCED: these accesses and nodes (R99, R104). -/
  | fence (accs nodes : List Nat)
  /-- DRAIN, FENCED: fabric writes issued before it with a home in the mask (R103). -/
  | drain (mask : Nat) (accs : List Nat)
  /-- CWAIT (R247). -/
  | nodes (ids : List Nat)
  /-- BWAIT (R261): barrier, phase, last package cycle of a limit, PD, SD. -/
  | bwait (b v : Nat) (limit : Option Nat) (pd sd : Nat)
  /-- WAITA (R265): the monitor, LIMIT, the last package cycle of a limit, PD, SX. -/
  | waita (mon lim : Nat) (limit : Option Nat) (pd sx : Nat)
  /-- FWAIT (R305). -/
  | fwait (mask : Nat) (limit : Option Nat) (sx : Nat)
  /-- A full copy window (R231): the node that waits to enter. -/
  | window
  /-- An OSEND that found its queue full (R268). -/
  | osend (dest : Nat)
  /-- A full side log (R251). -/
  | sideLog (unit : Nat)
  /-- A CSRWP of a package CSR until every copy holds the value (R279). -/
  | csr (num : Nat) (val : Word)
  /-- RCBLD (R298): due cycle, destination, value. -/
  | rcbld (due reg : Nat) (region : Nat)
  /-- ATCINV (R300): the invalidation. -/
  | atcinv (id : Nat)
  /-- SLOGREPLAY (R304): die, unit, the accesses taken, destination. -/
  | replay (die unit : Nat) (accs : List Nat) (sx : Nat)
  /-- The power governor (R393): the end of the hold. -/
  | governor (till : Nat)
  /-- The end of a communication phase (R37). -/
  | phaseEnd
  /-- A wheel operation outside its die's positions (R109). -/
  | wheel
  deriving DecidableEq, Repr

/-- The registers and position of one instruction stream: a die's own, or its shadow context's (R342).
DESIGN CHOICE, log entry 8. -/
structure Ctx where
  pc : Nat := 0
  prog : Nat := 0
  nextIssue : Nat := 0
  s : SMap Word := []
  p : BitVec 16 := 0
  c : SMap Coord := []
  tl : SMap Rec := []
  v : SMap Vec := []
  /-- Innermost level first. -/
  loops : List Level := []
  block : Option PBlock := none
  rotb : BitVec 10 := 0
  lsel : BitVec 3 := 0
  pend : List Pend := []
  wpend : List WPend := []
  resv : List Resv := []
  /-- Events of the program text, by program cycle: XSOLVE_COMPLETE, SELFTEST_CNT, COMM_PHASE_END. -/
  ptimed : List (Nat × Instr) := []
  /-- What the stream holds for before its next cycle. -/
  waits : List Wait := []
  deriving DecidableEq, Repr

/-- What a landing-buffer entry writes when its named cycle comes (R40, R41). -/
inductive LandWhat where
  /-- The first word of the data into a physical register; 0 discards it. -/
  | word (reg : Nat)
  /-- Eight words from a logical register on, under the mapping at issue (R34). -/
  | row (reg : Nat) (rotb : BitVec 10)
  | pop (reg q : Nat)
  /-- LOOPQ (R158): its queue, first and last body address, and whether its bundle carried a descriptor. -/
  | loopq (q : Nat) (first last : Nat) (own : Bool)
  | node (id : Nat)
  | recv (bank row src tag : Nat)
  deriving DecidableEq, Repr

/-- What a fault record tells of the operation that faulted, as the operation found it (R273, R339): slot, open loop levels,
rotation base, superstep and region. -/
structure Site where
  slot : Slot := .s0
  loops : List Level := []
  rotb : BitVec 10 := 0
  ssnum : BitVec 32 := 0
  region : Nat := 0
  deriving DecidableEq, Repr

/-- An entry of the landing buffer (R41). -/
structure Entry where
  id : Nat
  due : Nat
  iss : Nat
  what : LandWhat
  arrived : Bool
  data : Row
  /-- A request of the shadow context. -/
  sh : Bool
  /-- The access faulted and the shadow handler serves it (class L, R336). -/
  fault : Option Code
  /-- Of the request, for a record (R273). -/
  bundle : Nat
  site : Site
  /-- Accesses, nodes and the program cycle that the row write of a RECV waits for (R99, R104). -/
  after : List Nat := []
  afterNodes : List Nat := []
  afterCyc : Nat := 0
  deriving DecidableEq, Repr

/-- A fault being served (R336, R343). -/
structure Trap where
  code : Code
  slot : Slot
  hdr : Bool
  bundle : Nat
  prog : Nat
  site : Site
  detail : Word
  row3 : Row
  row4 : Row
  cls : Char
  /-- The record write that must perform first (R338). -/
  record : Nat
  /-- The record has performed, or there is none. -/
  ready : Bool
  /-- The access of a class-L fault. -/
  entry : Option Nat
  /-- The address of its record, once the record has its place (R338). -/
  addr : Option Word := none
  /-- The progress of the die in the cycle of the fault, when the record is made later (R340). -/
  row2 : Option Row := none
  /-- The bank that WALL-RANGE or BANK-CONFLICT names, and the two cycles of the latter (R76, R163, R175). -/
  names : List Nat := []
  deriving DecidableEq, Repr

/-- A record that has not its place yet (R338): its launch, die and number, and its rows. -/
structure PRecord where
  launch : Nat
  die : Nat
  id : Nat
  rows : List Row
  deriving DecidableEq, Repr

/-- What a die is doing (R36, R49, R161, R348). -/
inductive Run where
  | idle | running | barrier | ended | contained | preempted | draining
  deriving DecidableEq, Repr

/-- A local barrier (R259). -/
structure Barrier where
  target : BitVec 16 := 0
  count : BitVec 16 := 0
  phase : BitVec 16 := 0
  deriving DecidableEq, Repr

/-- What an access aims at. -/
inductive Target where
  | beyond
  | wall (die bank row : Nat)
  | scratch (die row : Nat)
  /-- Virtual: address of BASE, which gives the width, and bit offset of the element from BASE (R89, R323). -/
  | virt (base : Nat) (bits : Int)
  /-- Device-physical (R302): die, tier, byte offset. -/
  | phys (die tier off : Nat)
  deriving DecidableEq, Repr

/-- A monitor (R265): its number, the row's memory address at its home, the home, TRIGGERED, and whether the arm has performed
and been acknowledged. -/
structure Monitor where
  id : Nat
  /-- The target as its WAITA formed it. -/
  key : Target
  row : Nat
  home : Nat
  triggered : Bool
  armed : Bool
  acked : Bool
  /-- What its arm carried (R265, R266, R341): the row's virtual address, the format of BASE's page, the incarnation of its home. -/
  va : Nat := 0
  fmt : Nat := 0
  inc : BitVec 8 := 0
  /-- Of its WAITA, for a record (R273, R339). -/
  bundle : Nat := 0
  prog : Nat := 0
  site : Site := {}
  deriving DecidableEq, Repr

/-- A logged write (R345). -/
structure LogEntry where
  acc : Nat
  kind : Nat
  disc : Bool
  code : Code
  /-- The progress of the die in the cycle of the fault (R340). -/
  row2 : Row
  deriving DecidableEq, Repr

/-- An entry of a reduction window (R256). -/
structure RedEntry where
  link : Nat
  /-- The access that carries the combined row. -/
  acc : Nat
  row : Nat
  fn : Nat
  opened : Nat
  deriving DecidableEq, Repr

/-- A follow-on command (R135, R216), or an automatic self-test queued behind one (R214). -/
structure Follow where
  /-- The node of its CCOPYF; none for a self-test. -/
  node : Option Nat
  cap : Option MCap
  /-- The distinct wall rows the copy writes, in order of first write (R241), once it has written the last. -/
  rows : List (Nat × Nat)
  ready : Bool
  /-- Package cycle of the start, once it runs. -/
  started : Option Nat
  sums : List (Option AccRow)
  applied : Nat
  flags : BitVec 8
  deriving DecidableEq, Repr

/-- The matrix array (R194-R218). -/
structure Matrix where
  tile : MTile := {}
  /-- The groups written since the context was restored or launched (R294): acc0-acc3, tile, epilogue blocks, from bit 0 up. -/
  dirty : BitVec 6 := 0
  acc : SMap AccRow := []
  /-- The launch whose undefined elements the unlisted rows are (R274); none: zero. -/
  accGen : Option Nat := none
  /-- Bit n: acc n is in integer mode, in array order (R197). -/
  modes : BitVec 4 := 0
  /-- The same as readers of the sets find it: MZERO applies in its cycle (R205). -/
  modesNow : BitVec 4 := 0
  cnt : BitVec 12 := 0
  /-- The program cycle from which the array is free (R196). -/
  free : Nat := 0
  fenced : BitVec 17 := 0
  spareFor : Option Nat := none
  /-- CNT at the last passing self-test (R215). -/
  lastPass : BitVec 12 := 0
  ep : SMap EpBlock := []
  follow : List Follow := []
  deriving DecidableEq, Repr

/-- A sort operation in progress (R224, R225). -/
structure SortJob where
  /-- Program cycle of the next step. -/
  next : Nat
  left : Nat
  /-- Program cycle its retirement is named for. -/
  due : Nat
  arv : Option Nat
  /-- Resumed after a pre-emption: one step per package cycle (R225). -/
  resumed : Bool
  deriving DecidableEq, Repr

/-- Mace (R219-R230): cells by 256 r + c as key field, payload, origin. -/
structure Mace where
  cells : SMap (BitVec 80) := []
  /-- The cells have been written since the context was restored or launched (R294). -/
  dirty : Bool := false
  kstate : BitVec 64 := 0
  /-- KSTATE as every K instruction issued so far will leave it (R224). -/
  kview : BitVec 64 := 0
  /-- The first cycle not yet taken by an earlier K instruction's tile cycles. -/
  free : Nat := 0
  jobs : List SortJob := []
  deriving DecidableEq, Repr

/-- A copy command's kind (R231). -/
inductive NodeOp where
  | copy | copyf | fill | gather | scatter | dispatch | combine | migrate
  deriving DecidableEq, Repr

/-- Where a node stands (R232). -/
inductive NodeState where
  | waiting | launched | retired
  deriving DecidableEq, Repr

/-- One stored or given element. -/
inductive ElemRef where
  /-- An element of a row: index of the read request, format, element position in the row. -/
  | mem (read fmt pos : Nat)
  /-- Bits given outright: a fill value or a constant, with its format. -/
  | bits (fmt val : Nat)
  deriving DecidableEq, Repr

/-- Where one element that a copy writes comes from. -/
inductive ElemSrc where
  | one (r : ElemRef)
  /-- CCOMBINE: weight and expert output of each term (R246). -/
  | sum (terms : List (ElemRef × ElemRef))
  deriving DecidableEq, Repr

/-- Where a row of a copy lies: a wall or scratch row, or a virtual address. -/
inductive Place where
  | wall (die bank row : Nat)
  | scratch (die row : Nat)
  | virt (addr : Nat)
  deriving DecidableEq, Repr

/-- One row write of a node's plan: where, the format, and its elements (position, source), the last enumerated first. -/
structure PlanWrite where
  dst : Place
  fmt : Nat
  elems : List (Nat × ElemSrc)
  formed : Bool
  done : Bool
  deriving DecidableEq, Repr

/-- One row read of a node's plan. -/
structure PlanRead where
  src : Place
  fmt : Nat
  /-- The coalescing window of a gather (R243). -/
  tag : Nat
  formed : Bool
  data : Option Row
  deriving DecidableEq, Repr

/-- A node of the copy engine (R231-R238), with what it captured at issue (R235). -/
structure Node where
  id : Nat
  op : NodeOp
  args : CArgs
  state : NodeState
  preds : List Nat
  issued : Nat
  bundle : Nat
  prog : Nat
  site : Site
  /-- Made by the shadow context. -/
  sh : Bool
  /-- Records: A, B, XT, XT+1, XT+2, then the group records. -/
  recs : List Rec
  coords : List Coord
  fp : Fpctl
  word0 : Word
  word1 : Word
  entry : Option Nat
  arv : Option Nat
  /-- Accesses, nodes and the program cycle it must let perform first (R99). -/
  after : List Nat
  afterNodes : List Nat
  afterCyc : Nat
  /-- The cycle its launch is set for, or was; 0 before. -/
  launchAt : Nat
  /-- 0: the pages of BASE being resolved (R323); 1: indices or choices being read; 2: the main plan. -/
  stage : Nat
  /-- Format + 16 GEOM of each BASE's page. -/
  fmts : SMap Nat
  reads : List PlanRead
  writes : List PlanWrite
  fault : Option Code
  /-- What its fault reports: the virtual address, the memory address of an uncorrectable row, the data row of the write. -/
  va : Nat
  bad : Nat
  row4 : Row
  flags : BitVec 8
  /-- Counts still to push (R245). -/
  counts : List Nat
  /-- MIGRATE: the far die whose Clove takes it, where its die knows it when it launches (R303). -/
  clove : Option Nat := none
  deriving DecidableEq, Repr

/-- The copy engine of a die (R231-R248). -/
structure Copy where
  /-- Nodes in issue order; a retired one stays while a back-distance can name it. -/
  nodes : List Node := []
  next : Nat := 0
  /-- The ids have passed 65,535 (R340). -/
  wrapped : Bool := false
  /-- The last 15 executed C commands, newest first; none for CWAIT and CSTATUS (R134). -/
  hist : List (Option Nat) := []
  /-- Nodes that wait for room in the window (R231). -/
  waiting : List Node := []
  deriving DecidableEq, Repr

/-- An entry of a translation cache (R308): page number, log2 of the size, package page address, permissions, incarnations. -/
structure TcEntry where
  page : Nat
  bits : Nat
  pa : Nat
  rd : Bool
  wr : Bool
  incs : List (BitVec 8)
  deriving DecidableEq, Repr

/-- An entry of the ATS request table (R309): 64 KiB page, joined accesses, invalidated meanwhile (R310). -/
structure AtsReq where
  page : Nat
  accs : List Nat
  marked : Bool
  deriving DecidableEq, Repr

/-- A buffered leaf (R322): its value, the cycle of its last heat change, and of its last read and write raise (R326). -/
structure Leaf where
  val : BitVec 64
  changed : Nat
  dirty : Bool
  rAt : Option Nat
  wAt : Option Nat
  /-- The cycle of the sweeper's last visit, and the value before the last cycle in which its heat was updated (R326). -/
  vAt : Option Nat := none
  cyc : Nat := 0
  old : BitVec 64 := 0
  deriving DecidableEq, Repr

/-- Directory, walker, leaf buffer and sweeper of a die (R316-R326). -/
structure Dir where
  en : Bool := false
  sweep : BitVec 24 := 0
  roots : SMap Word := []
  /-- By leaf address in the home tier; newest use first. -/
  buf : List (Nat × Leaf) := []
  sweepPos : Nat := 0
  /-- The sweeper's last visit to a leaf that was not buffered: cycle, leaf, value before (R326). -/
  swept : Option (Nat × Nat × BitVec 64) := none
  /-- Accesses that wait at the walker, in arrival order (R330). -/
  waiting : List Nat := []
  deriving DecidableEq, Repr

/-- States of a migration (R327-R331). -/
inductive MigState where
  | waiting | moving | frozen
  deriving DecidableEq, Repr

/-- A migration of a far die's Clove (R327-R335). -/
structure Mig where
  id : Nat
  die : Nat
  node : Nat
  /-- Directory die, page number in its logical space, address of the leaf. -/
  h : Nat
  page : Nat
  leaf : Nat
  oldDie : Nat
  oldTier : Nat
  oldFrame : Nat
  newDie : Nat
  newTier : Nat
  newFrame : Nat
  va : Nat
  word : Word
  state : MigState
  /-- Lines the present round copies, and lines written since (R328, R329). -/
  copying : BitVec 256
  dirty : BitVec 256
  /-- The round's first cycle, the cycle from which its rows can be written, rows without a place so far, and rows still to be read
  from a near frame (R371, R395). -/
  began : Nat
  first : Nat
  left : Nat
  reads : Nat
  /-- Batches on their way: the cycle in which they perform, the index of the first row, and how many. -/
  batches : List (Nat × Nat × Nat)
  /-- CRC retries so far of each transfer that has failed, by twice the row's index, plus 1 for its write (R383). -/
  retries : List (Nat × Nat)
  round : Nat
  froze : Nat
  launch : Option Nat
  bundle : Nat
  prog : Nat
  site : Site
  deriving DecidableEq, Repr

/-- A job of a stack's training engine (R379-R381, R398). -/
inductive HbmJob where
  | pattern (pc : Nat) (dir : Bool) (len seed : Nat)
  | eye (pc lane : Nat) (dir : Bool) (len start : Nat)
  deriving DecidableEq, Repr

/-- One HBM4E stack (R370-R385). DESIGN CHOICE, log entry 10. -/
structure Hbm where
  level : Nat := 0
  /-- The level that takes effect at the next rotation (R374). -/
  next : Nat := 0
  wheld : Nat := 0
  /-- The package cycle in which the level last became 2, or fell from it (R375). -/
  since : Nat := 0
  temp : SMap Nat := []
  layer : SMap Nat := []
  pcsel : BitVec 9 := 0
  crcth : BitVec 16 := 0
  patctl : BitVec 32 := 0
  fail : BitVec 8 := 0
  done : Bool := false
  edone : Bool := false
  err : BitVec 16 := 0
  eyectl : BitVec 16 := 0
  eye : BitVec 64 := 0
  rdtap : SMap (BitVec 6) := []
  wrtap : SMap (BitVec 6) := []
  repair : SMap (BitVec 6) := []
  crccnt : SMap (BitVec 16) := []
  job : Option HbmJob := none
  /-- A tap write made while a capture sweeps the register (R398): write path, register, value. -/
  tapAfter : Option (Bool × Nat × BitVec 6) := none
  /-- The same once the sweep is complete: it applies in the next cycle (R398). -/
  tapDue : Option (Bool × Nat × BitVec 6) := none
  /-- Live repair: pseudo-channel, failing lane, first and last package cycle of the pause (R384). -/
  pause : List (Nat × Nat × Nat × Nat) := []
  /-- Requests that wait for a pseudo-channel in training (R379). -/
  stalled : List Nat := []
  deriving DecidableEq, Repr

/-- Power page (R393). -/
structure Power where
  pwr : BitVec 16 := 0
  cap : BitVec 12 := 0
  tj : BitVec 8 := 0
  govcyc : BitVec 32 := 0
  deriving DecidableEq, Repr

/-- What a launch holds of its region's effective values, from its placement or its last compute phase on (R282, R283, R299). -/
structure Terms where
  banklo : Nat := 0
  bankn : Nat := 0
  /-- Code range of a compute die and of a house sequencer: first bundle and bundles. -/
  codelo : Nat := 0
  coden : Nat := 0
  hcodelo : Nat := 0
  hcoden : Nat := 0
  cal : Nat := 0x7F
  opt : Nat := 256
  slice : Nat := 0
  fdom : Nat := 0
  /-- FBT in package cycles. -/
  fbt : Nat := 1024 * 0xFFFFFF
  iskip : Bool := false
  deriving DecidableEq, Repr

/-- A fence that later asynchronous accesses wait for (R99, R104): the paths it gates; the accesses, nodes and program cycle they
wait for; and whether accesses of every home wait (FENCED), or only those of the die itself. -/
structure Fence where
  paths : Nat
  /-- Made by the shadow context. -/
  sh : Bool
  accs : List Nat
  nodes : List Nat
  cyc : Nat
  far : Bool
  deriving DecidableEq, Repr

/-- One die (R11): its streams, CSRs, engines and memory system. -/
structure Die where
  main : Ctx := {}
  shadow : Ctx := {}
  /-- PRIV.SHADOW. -/
  inShadow : Bool := false
  run : Run := .idle
  launch : Option Nat := none
  trap : Option Trap := none
  /-- Faults of class N that wait for their record, or for the fault being served. -/
  trapQ : List Trap := []
  /-- In the communication phase (R36), with Lc and the program cycle of B. -/
  comm : Bool := false
  lc : Nat := 0
  phaseAt : Nat := 0
  fpctl : Fpctl := {}
  sbchk : BitVec 3 := 0
  holdcnt : Word := 0
  ssnum : BitVec 32 := 0
  inc : BitVec 8 := 0
  faultrec : Word := 0
  /-- PRIV.SYS. -/
  sys : Bool := false
  rgnId : Nat := 0
  view : Nat := 0
  dev : Nat := 0
  tvec : BitVec 32 := 0
  tcause : BitVec 16 := 0
  /-- FWEV.PEND as the package cycle found it, and the events that have arrived in this cycle (R305). -/
  fwev : BitVec 8 := 0
  fwnew : BitVec 8 := 0
  /-- Consecutive package cycles of the present hold, for FBT (R283). -/
  heldFor : Nat := 0
  /-- Boundary of the last pre-emption point passed and the results then in flight, for SBCHK.XB (R50). -/
  boundary : Option Nat := none
  regionTable : SMap Word := []
  barriers : SMap Barrier := []
  /-- Flags and barrier arrivals of the asynchronous nodes that retired in this package cycle (R67, R259). -/
  nodeFlags : BitVec 8 := 0
  /-- Flags of the nodes that retired before: they are set in the die's next cycle (R67). -/
  nodeDue : BitVec 8 := 0
  nodeArvs : List Nat := []
  queues : SMap (List (BitVec 32)) := []
  entries : List Entry := []
  monitors : List Monitor := []
  /-- Used in this phase: SEND (destination, tag), RECV (source, tag) (R262). -/
  sent : List (Nat × Nat) := []
  recvd : List (Nat × Nat) := []
  /-- Receive staging (R263): source, tag, row. -/
  staging : List (Nat × Nat × Row) := []
  /-- Side logs: fabric, copy, gather (R345). -/
  logF : List LogEntry := []
  logC : List LogEntry := []
  logG : List LogEntry := []
  /-- Writes that found their unit's log full, by unit; the die holds (R251). -/
  logOut : List (Nat × LogEntry) := []
  reds : List RedEntry := []
  /-- Fences that later asynchronous accesses wait for (R99). -/
  fences : List Fence := []
  /-- What the running launch holds of its region here (R299). -/
  terms : Terms := {}
  /-- Groups written since the context was restored or launched (R294): layout 0-7, v 8-39, route store 40-103. -/
  dirty : BitVec 104 := 0
  /-- Groups of the running context that have a saved copy, numbered as `Die.groups` (R295). -/
  kept : BitVec 111 := 0
  xw : SMap Route := []
  /-- The solve in flight (R174): landing cycle, entry, predicate (physical; 16 + n in the shadow context), destinations. -/
  solver : Option (Nat × Nat × Nat × Vec) := none
  matrix : Matrix := {}
  mace : Mace := {}
  copy : Copy := {}
  tcCopy : List TcEntry := []
  tcGather : List TcEntry := []
  tcFabric : List TcEntry := []
  tcSeq : List TcEntry := []
  ats : List AtsReq := []
  /-- Accesses that wait for a free entry of the ATS request table. -/
  atsWait : List Nat := []
  dir : Dir := {}
  migs : List Mig := []
  stalecnt : BitVec 32 := 0
  router : SMap Word := []
  /-- The entries the next communication phase uses (R362). -/
  routerNext : SMap Word := []
  reach : BitVec 16 := 0
  /-- LINKST: two bits of state and six of retries per link (R365). -/
  linkst : BitVec 32 := 0
  /-- Incarnations of the twelve dies as this die holds them (R351). -/
  incs : SMap (BitVec 8) := []
  hbm0 : Hbm := {}
  hbm1 : Hbm := {}
  /-- Requests in calendar positions: (position start, stack) and how many (R236). -/
  calendar : List (Nat × Nat × Nat) := []
  power : Power := {}
  /-- Last wheel position in which an SC operation issued (R109). -/
  lastSc : Option Nat := none
  /-- Per destination package: OSENDs done and overruns (R269). -/
  odone : SMap (BitVec 16) := []
  overrun : SMap (BitVec 16) := []
  present : Bool := false
  halted : Bool := false
  gated : Bool := false
  deriving DecidableEq, Repr

/-- What an access is (R357, R345). -/
inductive AccKind where
  | ldWord | ldRow | stWord | stRow | atom | red | scld | scst | scrmw | send | osend | plread | plwrite | mmld | mmldRow
  | mmst | mmstRow | arm | nodeRead | nodeWrite | record | cword | hostRd | hostWr
  | image | save | restore
  deriving DecidableEq, Repr

/-- Where an access stands on its way (R306, R321). -/
inductive Stage where
  | start | ats | toWalker | atWalker | forwarded | performed | logged | failed | granted | done
  deriving DecidableEq, Repr

/-- An access in flight. -/
structure Acc where
  id : Nat
  die : Nat
  path : Nat
  kind : AccKind
  fn : Nat
  target : Target
  /-- Virtual address of the row, once placed (0 for none). -/
  va : Nat
  word : Nat
  fmt : Nat
  /-- A target beyond the extents of a space-2 record (R249): its FILL. -/
  fill : Option Nat
  be : BitVec 64
  data : Row
  a : Word
  b : Word
  stage : Stage
  /-- Directory die and offset (R286), home die and memory address once known. -/
  dirDie : Nat
  off : Nat
  home : Option Nat
  key : Nat
  prog : Nat
  at' : Nat
  entry : Option Nat
  node : Option (Nat × Nat)
  /-- Wheel pair of an SC operation (R110): 64 rotation + position. -/
  sc : Option Nat
  /-- Incarnation carried for the home, and the requester's own. -/
  inc : BitVec 8
  sinc : BitVec 8
  region : Nat
  launch : Option Nat
  /-- The route notice has named its home (R321). -/
  noticed : Bool
  cause : Nat
  code : Code
  bundle : Nat
  site : Site
  /-- Made by the shadow context (R307, R342). -/
  sh : Bool
  /-- Cycles from its performing to the arrival of its data or acknowledgement. -/
  rest : Nat
  /-- CRC retries so far (R383). -/
  retries : Nat
  /-- The cycle from which it waits for a calendar position of its near frame (R236, R372); of a SEND, that in which its row left. -/
  ready : Option Nat
  /-- The host has answered its page request (R344). -/
  asked : Bool
  /-- An invalidation has covered its page during the page request (R353). -/
  marked : Bool
  /-- Accesses, nodes and the program cycle it waits for before it starts (R99). -/
  after : List Nat
  afterNodes : List Nat
  afterCyc : Nat
  deriving DecidableEq, Repr

/-- Where a launch stands (R289-R295). -/
inductive LState where
  | queued | running | preempting | preempted | ended
  deriving DecidableEq, Repr

/-- A party's saved context (R294): everything of the die that is context state. -/
structure Saved where
  die : Nat
  ctx : Ctx
  run : Run
  fpctl : Fpctl
  sbchk : BitVec 3
  holdcnt : Word
  ssnum : BitVec 32
  comm : Bool
  lc : Nat
  phaseAt : Nat
  boundary : Option Nat
  sys : Bool
  view : Nat
  terms : Terms
  /-- The groups that have a copy in the save area (R294, R295). -/
  kept : BitVec 111
  barriers : SMap Barrier
  queues : SMap (List (BitVec 32))
  faultrec : Word
  xw : SMap Route
  matrix : Matrix
  mace : Mace
  copy : Copy
  monitors : List Monitor
  deriving DecidableEq, Repr

/-- A launch (R288-R295). -/
structure Launch where
  id : Nat
  port : Nat
  region : Nat
  dev : Nat
  /-- Parties: physical die and entry bundle; house programs likewise. -/
  parties : List (Nat × Nat)
  houses : List (Nat × Nat)
  modes : Nat
  args : Nat
  cw : Nat
  arrived : Nat
  state : LState
  placed : Bool
  /-- What it holds of its region once placed (R299). -/
  terms : Terms
  /-- The package cycle in which its pre-emption was requested (R49, R275). -/
  askedAt : Nat
  /-- Slices waited, consecutive slices run, cycles run of this slice. -/
  waited : Nat
  slices : Nat
  /-- Parties whose SSEND issued in this superstep, and P (R36). -/
  atBarrier : List Nat
  barrierP : Nat
  endedDies : List Nat
  records : Nat
  status : Nat
  /-- The completion word: 0 not yet made, 1 on its way, 2 written (R291). -/
  word : Nat
  saved : List Saved
  /-- The launch path (R290): rows of the image read so far, and its stage: 0 header, 1 section table, 2 in the queue, 3 placed. -/
  img : List (Nat × Row)
  path : Nat
  /-- The dies whose code range is being filled with its image (R290). -/
  stale : List Nat := []
  /-- The cycle of the first issue, and of the present slice's end. -/
  issueAt : Nat
  sliceAt : Nat
  deriving DecidableEq, Repr

/-- An outstanding invalidation (R311): id, dies still to acknowledge, from the host. -/
structure Inval where
  id : Nat
  left : List Nat
  accs : List Nat
  host : Bool
  deriving DecidableEq, Repr

/-- A row in an optical send queue (R268). -/
structure ORow where
  /-- The number of the access that brought it. -/
  id : Nat
  die : Nat
  launch : Option Nat
  region : Nat
  /-- Program cycle of the OSEND; 0 for the shadow context's. -/
  prog : Nat
  addr : Nat
  /-- The virtual addresses its OSEND was translated by: of its row, and of BASE. -/
  vas : List Nat
  data : Row
  /-- The row stood in its queue when the slot opened (R367). -/
  stood : Bool
  deriving DecidableEq, Repr

/-- The bundle being issued: what its slots share (R24, R82, R131). The model's own (log entry 2). -/
structure Cur where
  die : Nat := 0
  slot : Slot := .s0
  bundle : Option Bundle := none
  /-- Rows at the read ingress ports (R169). -/
  reads : List (Nat × Row) := []
  /-- Wall rows the A slot names for writing: (bank, row). -/
  names : List (Nat × Nat) := []
  /-- The cascade value between units, and its flags. -/
  cas : Vec := 0
  casFlags : BitVec 8 := 0
  /-- Address at which issue continues when the bundle does not fall through, with the penalty (R153). -/
  jump : Option (Nat × Nat) := none
  /-- A level the bundle opens for the bundles after it (R158). -/
  level : Option Level := none
  /-- Penalty with no transfer: LOOPQ (R153). -/
  extra : Nat := 0
  /-- LBRK (R159). -/
  brk : Bool := false
  /-- TRET (R297). -/
  tret : Bool := false
  /-- The SSEND's self-test follows the bundle's array command (R214). -/
  test : Bool := false
  deriving DecidableEq, Repr

/-- Everything of the package but the bytes of memory. -/
structure Chip where
  now : Nat := 0
  /-- Which die acts next in this package cycle (log entry 1). -/
  turn : Nat := 0
  /-- Events to come: package cycle and event (log entry 3). -/
  events : List (Nat × Instr) := []
  /-- Wall rows overwritten through the service path in this cycle, with their old contents (R78, log entry 4). -/
  undo : List (Nat × Row) := []
  /-- Bank ports the service path has used in this cycle: die, bank, write (R77). -/
  served : List (Nat × Nat × Bool) := []
  /-- Numbers the free values (log entry 5). -/
  free : Nat := 0
  /-- Memory rows that read uncorrectably, by address (R350). -/
  bad : List Nat := []
  /-- Numbers accesses, launches and entries. -/
  nextId : Nat := 0
  cur : Cur := {}
  dies : List Die
  accs : List Acc := []
  launches : List Launch := []
  refused : BitVec 16 := 0
  svdrop : BitVec 16 := 0
  semOwner : Nat := 0
  semGrants : BitVec 16 := 0
  /-- What the last read answered at each control port: 0 that of far die 8, 1 that of far die 9 (R17, R280, log entry 116). -/
  hostData : SMap Row := []
  rtbase : Word := 0
  /-- Loaded control blocks (R298). -/
  regions : SMap (BitVec 2048) := []
  /-- The regions whose blocks have been loaded (R298). -/
  rloaded : List Nat := []
  /-- STATUS of each region (R281). -/
  rstatus : SMap Nat := []
  /-- Regions whose STATUS write waits for a page that is frozen, or for a pseudo-channel, and the cycle from which it is made again (R330,
  R379, R384). -/
  statusWait : List (Nat × Nat) := []
  /-- Regions whose block a control port's RCBSYNC waits to read, for the same reasons (R298). -/
  loadWait : List (Nat × Nat) := []
  /-- Records of the faults raised in this package cycle (R338). -/
  records : List PRecord := []
  /-- (region, die) whose code range is loaded (R290, R351). -/
  loaded : List (Nat × Nat) := []
  stage : Nat := 0
  bslot : Nat := 0
  berr : Nat := 0
  abusy : Bool := false
  imageHash : BitVec 384 := 0
  devid : BitVec 384 := 0
  idKey : BitVec 384 := 0
  /-- CATTRIP asserted (R376), and when. -/
  cattrip : Option Nat := none
  pkgId : Nat := 0
  npkg : Nat := 0
  slots : SMap Word := []
  slotsNext : SMap Word := []
  /-- The open optical slot, and the rows that each region has sent in it (R367). -/
  oslot : Option Nat := none
  osent : SMap Nat := []
  oqueue : SMap (List ORow) := []
  /-- Rows whose OSEND found the queue full, by destination; their dies hold (R268). -/
  owait : SMap (List ORow) := []
  /-- By destination package: accesses that wait for its slot, ahead of the queued rows (R368). -/
  oaccs : SMap (List Nat) := []
  rotStart : Nat := 0
  invals : List Inval := []
  deriving DecidableEq, Repr

/-- The state of the package. -/
structure State where
  mem : Memory
  chip : Chip
  deriving DecidableEq, Repr

/-- A die after package reset: every field at its reset value; PRIV.HOUSE and DIEID.DIE follow from its number. -/
def Die.reset : Die := {}

/-- The package right after reset (R386, R391): nothing listed in memory, twelve dies, and bring-up as the next event. -/
def Chip.reset : Chip := { dies := List.replicate 12 Die.reset, events := [(0, .bringup)] }

/-- The machine right after reset. DESIGN CHOICE, log entry 7. -/
def State.reset : State := { mem := [], chip := Chip.reset }

end Sys2Proof.Machine
end

