-- ==== Sys2Proof/Machine/Ops.lean ====
section
/-!
DEFINITION. The named operations every meaning is made of: bytes and rows of memory, a die's registers, results in flight,
events, regions, translation, accesses to any space, fault records and taking an exception.
-/

namespace Sys2Proof.Machine

/-! ### Memory -/

/-- The kinds of storage `memAddr` tells apart. -/
def kWall : Nat := 0
def kScratch : Nat := 1
def kNear : Nat := 2
def kFar : Nat := 3
def kCxl : Nat := 4
def kCode : Nat := 5
def kFlash : Nat := 6
def kHost : Nat := 7

/-- The address of byte `off` of storage `kind` of die `die`. -/
def memAddr (kind die off : Nat) : Nat := off + 2 ^ 64 * (kind + 8 * die)

/-- The address of a wall row (R75). -/
def wallAddr (die bank row : Nat) : Nat := memAddr kWall die ((bank * 1536 + row) * 64)

/-- The byte at an address; an unlisted address reads 0 (log entry 6). -/
def Memory.read : Memory → Nat → BitVec 8
  | [], _ => 0
  | (b, x) :: m, a => if b = a then x else Memory.read m a

/-- The memory with an address no longer listed. -/
def Memory.drop : Memory → Nat → Memory
  | [], _ => []
  | (b, x) :: m, a => if b = a then m else (b, x) :: Memory.drop m a

/-- List a byte at its place in the order; the address is not listed yet. -/
def Memory.insert : Memory → Nat → BitVec 8 → Memory
  | [], a, x => [(a, x)]
  | (b, y) :: m, a, x => if a < b then (a, x) :: (b, y) :: m else (b, y) :: Memory.insert m a x

/-- Write one byte, keeping the canonical form. -/
def Memory.write (m : Memory) (a : Nat) (x : BitVec 8) : Memory :=
  if x = 0 then m.drop a else (m.drop a).insert a x

/-- Addresses strictly rise, from above `lo`, and no listed byte is what an unlisted address reads. -/
def Memory.wfFrom : Memory → Option Nat → Bool
  | [], _ => true
  | (a, x) :: m, lo => (match lo with | none => true | some l => decide (l < a)) && x != 0 && Memory.wfFrom m (some a)

/-- The canonical form of memory. -/
def Memory.wf (m : Memory) : Bool := m.wfFrom none

/-- `n` bytes from an address. -/
def Memory.bytes (m : Memory) (a : Nat) : Nat → List (BitVec 8)
  | 0 => []
  | n + 1 => m.read a :: Memory.bytes m (a + 1) n

/-- The 64-byte row at an address (R2, R75). -/
def Memory.row (m : Memory) (a : Nat) : Row := BitVec.ofNat 512 (leBytes (m.bytes a 64))

/-- One row write with its byte enables: the only way memory changes. -/
structure MWrite where
  addr : Nat
  be : BitVec 64
  data : Row
  deriving DecidableEq, Repr

/-- All byte enables set. -/
def allBytes : BitVec 64 := BitVec.allOnes 64

/-- Byte k of a row. -/
def rowByte (r : Row) (k : Nat) : BitVec 8 := r.extractLsb' (8 * k) 8

/-- Write the enabled bytes from index k on. -/
def Memory.putFrom (w : MWrite) : Nat → Memory → Memory
  | 0, m => m
  | n + 1, m => if w.be.getLsbD n then (Memory.putFrom w n m).write (w.addr + n) (rowByte w.data n)
                else Memory.putFrom w n m

/-- A row write as one event (R75). -/
def Memory.put (m : Memory) (w : MWrite) : Memory := m.putFrom w 64

/-- Row writes in order. -/
def Memory.putAll (m : Memory) (ws : List MWrite) : Memory := ws.foldl Memory.put m

/-! ### Steps of a meaning -/

/-- What a piece of a meaning does: the chip it leaves and the row writes it makes, in order. -/
structure Delta where
  chip : Chip
  writes : List MWrite

/-- The state a delta leads to. -/
def Delta.on (d : Delta) (s : State) : State := { mem := s.mem.putAll d.writes, chip := d.chip }

/-- A piece of a meaning. -/
abbrev M := State → Delta

namespace M

/-- Nothing happens. -/
def skip : M := fun s => ⟨s.chip, []⟩
/-- Change the chip. -/
def mod (f : Chip → Chip) : M := fun s => ⟨f s.chip, []⟩
/-- Write a row of memory. -/
def write (w : MWrite) : M := fun s => ⟨s.chip, [w]⟩
/-- One piece, then another in the state it leaves. -/
def seq (a b : M) : M := fun s =>
  let d := a s
  let e := b (d.on s)
  ⟨e.chip, d.writes ++ e.writes⟩
/-- A piece chosen from the state. -/
def look (f : State → M) : M := fun s => f s s
/-- A list of pieces in order. -/
def all (l : List M) : M := l.foldr seq skip
/-- A piece for each element of a list, in order. -/
def each {α : Type} (l : List α) (f : α → M) : M := all (l.map f)
/-- A piece under a condition. -/
def iff (b : Bool) (a : M) : M := if b then a else skip

end M

/-- A meaning ends in the next state. -/
def finish (s : State) (m : M) : Host.Outcome State Fault Refusal := .next ((m s).on s)

/-- The meaning of an event of die `d`: a fault if the package has no such die (R4). DESIGN CHOICE, log entry 107. -/
def onDie (d : Nat) (s : State) (m : M) : Host.Outcome State Fault Refusal :=
  if d < 12 then finish s m else .fault (.noSuchDie d)

/-! ### Dies, streams and registers -/

/-- The power governor's hold (R393). -/
def Wait.isGovernor (w : Wait) : Bool := match w with | .governor _ => true | _ => false
/-- Die `d`. -/
def Chip.die (c : Chip) (d : Nat) : Die := c.dies.getD d Die.reset
/-- Change die `d`. -/
def Chip.modDie (c : Chip) (d : Nat) (f : Die → Die) : Chip := { c with dies := c.dies.set d (f (c.die d)) }
/-- Change die `d`, as a piece of a meaning. -/
def modDie (d : Nat) (f : Die → Die) : M := M.mod fun c => c.modDie d f
/-- The stream that issues: the die's own, or the shadow context's. -/
def Die.ctx (x : Die) : Ctx := if x.inShadow then x.shadow else x.main
/-- Change the stream that issues. -/
def Die.modCtx (x : Die) (f : Ctx → Ctx) : Die :=
  if x.inShadow then { x with shadow := f x.shadow } else { x with main := f x.main }
/-- Landing-buffer entries of a stream that are due and have not arrived (R42), or whose row write a fence still gates (R99). -/
def Die.late (x : Die) (sh : Bool) : Bool :=
  let y := if sh then x.shadow else x.main
  x.entries.any fun e => e.sh == sh && e.due ≤ y.prog && (!e.arrived || !e.after.isEmpty || !e.afterNodes.isEmpty)
/-- The named retirement of a sort operation has come and its last step has not run (R225). -/
def Die.sortLate (x : Die) : Bool := x.mace.jobs.any fun j => 0 < j.left && j.due ≤ x.main.prog
/-- The die's clock runs at all: present, powered, and not in a debugger's hands (R312). -/
def Die.alight (x : Die) : Bool := x.present && !x.halted && !x.gated
/-- A fault of class F waits for the containment that follows it (R348). -/
def Die.doomed (x : Die) : Bool := match x.trap with | some t => t.cls == 'F' | none => false
/-- The stream that issues runs a program cycle in this package cycle, as far as can be told before its turn (R42). -/
def Die.steps (x : Die) : Bool :=
  x.alight && x.ctx.waits.isEmpty && !x.late x.inShadow && (if x.inShadow then !x.doomed
    else (x.run == .draining || ((x.run == .running || x.run == .ended) && !x.sortLate)) && x.trap.isNone)
/-- The issuing die and its stream. -/
def State.cd (s : State) : Nat := s.chip.cur.die
def State.me (s : State) : Die := s.chip.die s.cd
def State.cx (s : State) : Ctx := s.me.ctx
/-- The issuing die is a house sequencer (R13). -/
def State.house (s : State) : Bool := 8 ≤ s.cd
/-- The stream runs in system mode (R277). -/
def Die.sysMode (x : Die) (d : Nat) : Bool := x.sys || x.inShadow || 8 ≤ d
def State.sysMode (s : State) : Bool := s.me.sysMode s.cd
/-- Change the issuing die, or its stream. -/
def modMe (f : Die → Die) : M := M.look fun s => modDie s.cd f
def modCx (f : Ctx → Ctx) : M := modMe fun x => x.modCtx f
/-- Change the issue context. -/
def modCur (f : Cur → Cur) : M := M.mod fun c => { c with cur := f c.cur }

/-- The physical scalar behind a name (R33). -/
def physS (rotb : BitVec 10) (n : Nat) : Nat := if n < 48 then n else 48 + (n - 48 + rotb.toNat) % 16
/-- The physical predicate behind a name (R33). -/
def physP (rotb : BitVec 10) (n : Nat) : Nat := if n < 8 then n else 8 + (n - 8 + rotb.toNat) % 8
/-- The physical vector register behind a name (R33). -/
def physV (rotb : BitVec 10) (n : Nat) : Nat := if n < 1024 then n else 1024 + (n - 1024 + rotb.toNat) % 1024

/-- Read a scalar by name; s0 reads 0 (R144). -/
def Ctx.rs (x : Ctx) (n : Nat) : Word := if n = 0 then 0 else SMap.get 0 x.s (physS x.rotb n)
/-- Read a predicate by name; p0 reads true (R144). -/
def Ctx.rp (x : Ctx) (n : Nat) : Bool := if n = 0 then true else x.p.getLsbD (physP x.rotb n)
/-- Read a vector register by name. -/
def Ctx.rv (x : Ctx) (n : Nat) : Vec := SMap.get 0 x.v (physV x.rotb n)
/-- Read a coordinate register, a layout record. -/
def Ctx.rc (x : Ctx) (n : Nat) : Coord := SMap.get 0 x.c n
def Ctx.rtl (x : Ctx) (n : Nat) : Rec := SMap.get 0 x.tl n

/-- Lane `i` of a vector. -/
def lane (v : Vec) (i : Nat) : BitVec 32 := v.extractLsb' (32 * i) 32
/-- The number whose `w`-bit digit `i` is `f i`, for i below `n`. -/
def digits (w : Nat) (f : Nat → Nat) : Nat → Nat
  | 0 => 0
  | n + 1 => digits w f n + 2 ^ (w * n) * (f n % 2 ^ w)
/-- A vector from its lanes. -/
def vecOf (f : Nat → BitVec 32) : Vec := BitVec.ofNat 32768 (digits 32 (fun i => (f i).toNat) 1024)

/-- A result of the issuing bundle lands `lat` program cycles after its issue (R27). -/
def later (lat : Nat) (l : Land) : M := modCx fun x => { x with pend := x.pend ++ [⟨x.prog + lat, x.prog, l⟩] }
/-- Write a scalar by name; a write to s0 is discarded (R144). -/
def laterS (lat n : Nat) (v : Word) : M :=
  M.look fun s => if n = 0 then M.skip else later lat (.s (physS s.cx.rotb n) v)
/-- Write a predicate by name; a write to p0 is discarded (R144). -/
def laterP (lat n : Nat) (b : Bool) : M :=
  M.look fun s => if n = 0 then M.skip else later lat (.p (physP s.cx.rotb n) b)
/-- Write a vector register by name. -/
def laterV (lat n : Nat) (v : Vec) : M := M.look fun s => later lat (.v (physV s.cx.rotb n) v)
/-- A row write of the own wall in `lat` program cycles (R82, R96). -/
def laterW (lat bank row : Nat) (be : BitVec 64) (data : Row) (path : Nat) : M :=
  modCx fun x => { x with wpend := x.wpend ++ [{ due := x.prog + lat, iss := x.prog, bank, row, be, data, path }] }
/-- An event of the program text in `lat` program cycles. -/
def laterE (lat : Nat) (i : Instr) : M := modCx fun x => { x with ptimed := x.ptimed ++ [(x.prog + lat, i)] }

/-- An event in package cycle `t`. -/
def sched (t : Nat) (i : Instr) : M := M.mod fun c => { c with events := c.events ++ [(t, i)] }
/-- An event `n` package cycles from now. -/
def schedIn (n : Nat) (i : Instr) : M := M.look fun s => sched (s.chip.now + n) i
/-- Use up one free value. -/
def tickFree : M := M.mod fun c => { c with free := c.free + 1 }
/-- An event `n` cycles from now when unloaded, and later under load (R236; log entry 5). -/
def schedLoaded (n : Nat) (i : Instr) : M :=
  M.look fun s => M.seq (sched (s.chip.now + n + Config.extra s.chip.free) i) tickFree
/-- FWEV.PEND (R305). -/
def Die.pend (x : Die) : BitVec 8 := x.fwev ||| x.fwnew
/-- Set bit `b` of FWEV.PEND on every die (R305). -/
def fwev (b : Nat) : M := schedIn 0 (.firmwareEvent b)

/-- Clear the low 6 address bits. -/
def rowBase (a : Nat) : Nat := a / 64 * 64
/-- Word k of a row. -/
def rowWord (r : Row) (k : Nat) : Word := r.extractLsb' (64 * k) 64
/-- A row from its words. -/
def rowOf (f : Nat → Word) : Row := BitVec.ofNat 512 (digits 64 (fun i => (f i).toNat) 8)
/-- A row with one word placed. -/
def wordRow (k : Nat) (w : Word) : Row := rowOf fun i => if i = k then w else 0
/-- The byte enables of word k (R75). -/
def wordBe (k : Nat) : BitVec 64 := BitVec.ofNat 64 (255 * 2 ^ (8 * k))

/-! ### Regions (R281-R283) -/

/-- The loaded control block of a region. -/
def Chip.block (c : Chip) (n : Nat) : Nat := (SMap.get 0 c.regions n).toNat

/-- The effective value of an item: the block's own if its OVR bit is set or it is region 0, else the parent's (R282). -/
def Chip.effItem (c : Chip) (ovr lo w : Nat) : Nat → Nat → Nat
  | 0, n => fld (c.block n) lo w
  | fuel + 1, n =>
    if n = 0 || bitOf (c.block n) ovr then fld (c.block n) lo w else Chip.effItem c ovr lo w fuel (fld (c.block n) 0 16)

/-- The effective SYS (R282). -/
def Chip.effSys (c : Chip) : Nat → Nat → Bool
  | 0, n => bitOf (c.block n) 51
  | fuel + 1, n => if n = 0 then bitOf (c.block 0) 51
                   else bitOf (c.block n) 51 && Chip.effSys c fuel (fld (c.block n) 0 16)

def Chip.prio (c : Chip) (n : Nat) : Nat := c.effItem 56 48 3 16 n
def Chip.weight (c : Chip) (n : Nat) : Nat := let w := c.effItem 56 216 8 16 n; if w = 0 then 1 else w
def Chip.rdies (c : Chip) (n : Nat) : Nat := c.effItem 57 64 16 16 n
def Chip.banklo (c : Chip) (n : Nat) : Nat := c.effItem 58 80 10 16 n
def Chip.bankn (c : Chip) (n : Nat) : Nat := c.effItem 58 90 11 16 n
def Chip.codelo (c : Chip) (n d : Nat) : Nat := if d < 8 then c.effItem 59 104 16 16 n else c.effItem 59 1216 16 16 n
/-- CODEN, or HCODEN on a house sequencer. -/
def Chip.coden (c : Chip) (n d : Nat) : Nat := if d < 8 then c.effItem 59 120 17 16 n else c.effItem 59 1232 15 16 n
/-- CAL; 0 is read as 0x7F (R283). -/
def Chip.cal (c : Chip) (n : Nat) : Nat := let x := c.effItem 60 137 7 16 n; if x = 0 then 0x7F else x
/-- OPT; 0 is read as 256 (R367). -/
def Chip.opt (c : Chip) (n : Nat) : Nat := let x := c.effItem 61 144 8 16 n; if x = 0 then 256 else x
def Chip.slice (c : Chip) (n : Nat) : Nat := c.effItem 62 152 24 16 n
def Chip.fdom (c : Chip) (n : Nat) : Nat := c.effItem 63 176 16 16 n
/-- FBT in package cycles; 0 is read as 0xFF_FFFF (R281, R283). -/
def Chip.fbt (c : Chip) (n : Nat) : Nat := let x := c.effItem 63 192 24 16 n; 1024 * (if x = 0 then 0xFFFFFF else x)
def Chip.iskip (c : Chip) (n : Nat) : Bool := c.effItem 63 228 1 16 n == 1
/-- VIEW, FRP, IMGBASE, SAVEA are the block's own (R282). DEDUCED, log entry 132. -/
def Chip.rview (c : Chip) (n : Nat) : Nat := fld (c.block n) 52 2
def Chip.frp (c : Chip) (n : Nat) : Nat := fld (c.block n) 1024 64
def Chip.imgbase (c : Chip) (n : Nat) : Nat := fld (c.block n) 1088 64
def Chip.savea (c : Chip) (n : Nat) : Nat := fld (c.block n) 1152 64

/-- The effective values of a region that a launch comes to hold (R282, R299). -/
def Chip.terms (c : Chip) (n : Nat) : Terms :=
  { banklo := c.banklo n, bankn := c.bankn n, codelo := c.codelo n 0, coden := c.coden n 0, hcodelo := c.codelo n 8,
    hcoden := c.coden n 8, cal := c.cal n, opt := c.opt n, slice := c.slice n, fdom := c.fdom n, fbt := c.fbt n, iskip := c.iskip n }
/-- The code range of a die (R281). -/
def Terms.codeBase (t : Terms) (d : Nat) : Nat := if d < 8 then t.codelo else t.hcodelo
def Terms.codeSize (t : Terms) (d : Nat) : Nat := if d < 8 then t.coden else t.hcoden
/-- What a new compute phase changes: all but the code ranges (R299). -/
def Terms.next (t new : Terms) : Terms :=
  { new with codelo := t.codelo, coden := t.coden, hcodelo := t.hcodelo, hcoden := t.hcoden }

/-- The launch is on its dies or pre-empted. -/
def Launch.active (l : Launch) : Bool := l.state == .running || l.state == .preempting || l.state == .preempted
/-- What a launch holds: its region's present values until it is placed. -/
def Chip.holds (c : Chip) (l : Launch) : Terms := if l.active then l.terms else c.terms l.region

/-- The bank lies in the range of the die's running region (R76). -/
def Die.bankOk (x : Die) (bank : Nat) : Bool := x.terms.banklo ≤ bank && bank < x.terms.banklo + x.terms.bankn

/-- The dies of the widest fence scope of a device view (R284). -/
def viewScope (view dev : Nat) : Nat :=
  match view with
  | 0 => 0x0FFF
  | 1 => 0x0F00 + 0xF * 2 ^ (4 * dev)
  | _ => 2 ^ dev + 2 ^ (8 + dev % 4)

/-- Physical die of logical die `d` of device `dev` (R284). -/
def physDie (view dev d : Nat) : Nat :=
  match view with
  | 0 => d
  | 1 => 4 * dev + d
  | _ => dev

/-! ### Links and paths (R12, R354, R360) -/

/-- The die at the far end of link `g` of die `d` (R12, R83, R354). -/
def peer (d g : Nat) : Option Nat :=
  if d < 8 then
    match g with
    | 0 => some (8 + d % 4)
    | 1 => some (if d < 4 then d + 4 else d - 4)
    | 2 => if d % 4 = 0 then none else some (d - 1)
    | 3 => if d % 4 = 3 then none else some (d + 1)
    | _ => none
  else match g with
    | 0 => some (d - 8)
    | 1 => some (d - 4)
    | _ => none

/-- STATE of a link (R365): 1 or 3 is up. -/
def Die.linkUp (x : Die) (g : Nat) : Bool := fld x.linkst.toNat (8 * g) 2 % 2 == 1

/-- The links from column to column within a row, as (die, link). -/
def rowLinks (d col : Nat) : Nat → List (Nat × Nat)
  | 0 => []
  | n + 1 =>
    if d % 4 = col then [] else if d % 4 < col then (d, 3) :: rowLinks (d + 1) col n else (d, 2) :: rowLinks (d - 1) col n

/-- Change of row at a die, when the target's row differs. -/
def crossLinks (d row : Nat) : List (Nat × Nat) := if d / 4 = row then [] else [(d, 1)]

/-- The along-row and the cross-first path from compute die `d` to die `t` (R360). -/
def meshPath (d t : Nat) (crossFirst : Bool) : List (Nat × Nat) :=
  if t < 8 then
    if crossFirst then crossLinks d (t / 4) ++ rowLinks (t / 4 * 4 + d % 4) (t % 4) 4
    else rowLinks d (t % 4) 4 ++ crossLinks (d / 4 * 4 + t % 4) (t / 4)
  else
    let col := t - 8
    if crossFirst then [(d, 1)] ++ rowLinks ((1 - d / 4) * 4 + d % 4) col 4 ++ [((1 - d / 4) * 4 + col, 0)]
    else rowLinks d col 4 ++ [(d / 4 * 4 + col, 0)]

/-- Breadth-first distance over links that are up, for the detour (R360). -/
def bfs (up : Nat → Nat → Bool) (t : Nat) : Nat → List Nat → Nat → Option Nat
  | 0, _, _ => none
  | n + 1, front, dist =>
    if front.contains t then some dist
    else
      let next := (List.range 12).filter fun e =>
        front.contains e || front.any fun d => (List.range 4).any fun g => up d g && peer d g == some e
      bfs up t n next (dist + 1)

/-- The along-row and the cross-first path of a message from die `a` to die `t`, as (die, link) (R360). -/
def paths (a t : Nat) : List (List (Nat × Nat)) :=
  let entry : List (Nat × Nat) := if a < 8 then [] else [(a, if t < 8 then t / 4 else 0)]
  let start := if a < 8 then a else (if t < 8 then t / 4 * 4 else 0) + (a - 8)
  [entry ++ meshPath start t false, entry ++ meshPath start t true]

/-- The path that is up (R360). -/
def Chip.path (c : Chip) (a t : Nat) : Option (List (Nat × Nat)) :=
  (paths a t).find? fun l => l.all fun p => (c.die p.1).linkUp p.2

/-- Number of links on the path a message from die `a` to die `t` takes; none when no path is up (R360). -/
def Chip.hops (c : Chip) (a t : Nat) : Option Nat :=
  if a = t then some 0
  else match c.path a t with
    | some p => some p.length
    | none => bfs (fun d g => (c.die d).linkUp g) t 12 [a] 0

/-- The link of die `a` by which a message to die `t` leaves it (R360). -/
def Chip.firstLink (c : Chip) (a t : Nat) : Nat :=
  match c.path a t with
  | some p => (p.head?.map (·.2)).getD 0
  | none =>
    let up (d g : Nat) : Bool := (c.die d).linkUp g
    ((List.range 4).find? fun g => up a g && (match peer a g, c.hops a t with
      | some b, some n => bfs up t 12 [b] 0 == some (n - 1)
      | _, _ => false)).getD 0

/-- Hops for a figure; a target no link reaches counts as one hop, and its request is lost with the die (R363). -/
def Chip.hop (c : Chip) (a t : Nat) : Nat := (c.hops a t).getD 1

/-- One-way figure of a remote write, walker or wall: 80 over one hop, 48 for each further (R236, R321, R361). -/
def oneWay (h : Nat) : Nat := 80 + 48 * (h - 1)
/-- The same from die `a` to the walker of die `t`, or back: 4 within a die (R321). -/
def Chip.toDie (c : Chip) (a t : Nat) : Nat := if a = t then 4 else oneWay (c.hop a t)

/-! ### The calendar (R371-R373) -/

/-- Withheld positions of a stack, as a count from 8d+6 down (R375). -/
def Die.stack (x : Die) (s : Nat) : Hbm := if s = 0 then x.hbm0 else x.hbm1
def Die.modStack (x : Die) (s : Nat) (f : Hbm → Hbm) : Die :=
  if s = 0 then { x with hbm0 := f x.hbm0 } else { x with hbm1 := f x.hbm1 }

/-- First start of calendar position `p` at or after cycle `t` (R371). -/
def posStart (p t : Nat) : Nat :=
  let base := t / 128 * 128 + 2 * p
  if t ≤ base then base else base + 128

/-- The position a request to a stack of die `e` rides in, for Cloves and house sequencers (R372). -/
def sharedPos (e level : Nat) : Nat :=
  if level = 2 then 63
  else if e = 3 then (if level = 0 then 31 else 39)
  else if e = 7 then 7
  else 8 * e + 7

/-- Requests already in a position of a stack, by the records in `cal`. -/
def calUsed (cal : List (Nat × Nat × Nat)) (start stack : Nat) : Nat :=
  ((cal.filter fun p => p.1 == start && p.2.1 == stack).map (·.2.2)).sum
/-- The requests of far dies in calendar positions. -/
def Chip.sharedCal (c : Chip) : List (Nat × Nat × Nat) := ((List.range 4).map fun k => (c.die (8 + k)).calendar).flatten
/-- Requests a shared position carries (R371, R375). -/
def sharedCap (level : Nat) : Nat := if level = 2 then 16 else 48

/-- Global stack number 2e + s. -/
def stackNo (e off : Nat) : Nat := 2 * e + off / 2 ^ 36 % 2
/-- The stack that holds byte `off` of the near tier of die `e`. -/
def Chip.stackAt (c : Chip) (e off : Nat) : Hbm := (c.die e).stack (off / 2 ^ 36 % 2)

/-- The positions compute die `d` may use, in order: owned, allowed, not withheld; 8d when there is none (R283, R373). -/
def ownedPos (cal d : Nat) (h : Hbm) : List Nat :=
  let ps := (List.range 7).filter fun k => bitOf cal k && k < 7 - h.wheld
  (if ps.isEmpty then [0] else ps).map (8 * d + ·)

/-- Rows of the Cloves that came to a stack by cycle `t` and have no place in a position yet (R371). -/
def Chip.cloveAhead (c : Chip) (st t : Nat) : Nat :=
  (((c.dies.map (·.migs)).flatten).map fun m =>
    (if m.newTier = 0 && stackNo m.newDie (m.newFrame * 2 ^ 16) == st && m.first ≤ t then m.left else 0) +
    (if m.oldTier = 0 && stackNo m.oldDie (m.oldFrame * 2 ^ 16) == st && m.began ≤ t then m.reads else 0)).sum

/-! ### Pseudo-channels (R370, R378-R384) -/

/-- The pseudo-channel in the window, and whether it is in training (R378, R379). -/
def Hbm.pc (h : Hbm) : Nat := fld h.pcsel.toNat 0 8
def Hbm.train (h : Hbm) : Bool := bitOf h.pcsel.toNat 8
def Hbm.training (h : Hbm) (pc : Nat) : Bool := h.train && h.pc == pc
/-- REPAIR of a pseudo-channel. -/
def Hbm.rep (h : Hbm) (pc : Nat) : Nat := (SMap.get 0 h.repair pc).toNat

/-- Die and offset of a memory address in a device page. -/
def pageOf (key : Nat) : Option (Nat × Nat) :=
  let k := key / 2 ^ 64 % 8
  let d := key / 2 ^ 67
  let off := key % 2 ^ 64
  if ((k == kNear && d < 8) || (k == kFar && 8 ≤ d)) && 0x1000 ≤ off && off < 0x5000 then some (d, off) else none

/-- Stack and pseudo-channel of a near-tier row (R370). -/
def pcOf (key : Nat) : Option (Nat × Nat × Nat) :=
  if key / 2 ^ 64 % 8 == kNear && key / 2 ^ 67 < 8 && (pageOf key).isNone then
    some (key / 2 ^ 67, key % 2 ^ 64 / 2 ^ 36, key / 64 % 256)
  else none

/-- A row reads uncorrectably (R350, R382). -/
def Chip.isBad (c : Chip) (key : Nat) : Bool :=
  c.bad.contains key || (match pcOf key with | some (d, k, pc) => bitOf (((c.die d).stack k).rep pc) 5 | none => false)
/-- A pseudo-channel out of service: its rows take no write (R382). -/
def Chip.isDead (c : Chip) (key : Nat) : Bool :=
  match pcOf key with | some (d, k, pc) => bitOf (((c.die d).stack k).rep pc) 5 | none => false
/-- A row's pseudo-channel is in training (R379). -/
def Chip.inTraining (c : Chip) (key : Nat) : Bool :=
  match pcOf key with | some (d, k, pc) => ((c.die d).stack k).training pc | none => false
/-- A row's pseudo-channel is paused for a live repair (R384). DEDUCED, log entry 144. -/
def Chip.isPaused (c : Chip) (key : Nat) : Bool :=
  match pcOf key with
  | some (d, k, pc) => ((c.die d).stack k).pause.any fun p => p.1 == pc && p.2.2.1 ≤ c.now && c.now ≤ p.2.2.2
  | none => false

/-- A row's pseudo-channel is paused, or pauses from the next cycle on (R384). -/
def Chip.pausing (c : Chip) (key : Nat) : Bool :=
  match pcOf key with
  | some (d, k, pc) => ((c.die d).stack k).pause.any fun p => p.1 == pc && c.now ≤ p.2.2.2
  | none => false

/-- Cycles after which a request that finds its row's pseudo-channel in a pause (R384) or in training (R379) is made again; 0: it is taken. -/
def Chip.rowDelay (c : Chip) (key : Nat) : Nat := if c.isPaused key then 1024 else if c.inTraining key then 1 else 0

/-! ### Region table, directory and translation (R286, R306-R321) -/

/-- Width in bits of an element (R53); untyped is one row. -/
def fmtWidth (f : Nat) : Nat :=
  match f with
  | 0 => 512
  | 1 | 10 => 32
  | 2 | 3 => 16
  | 4 | 5 | 7 | 11 => 8
  | _ => 4

/-- The fill value of one element (R90): its bits in the element's width. -/
def fillElem (fmt fill : Nat) : Nat :=
  match fmt with
  | 0 => digits 16 (fun _ => fill) 32
  | 1 => fill * 2 ^ 16
  | 10 => (sint 16 fill % (2 ^ 32 : Nat)).toNat
  | f => fill % 2 ^ fmtWidth f

/-- The fill row (R90). -/
def fillRow (fmt fill : Nat) : Row :=
  let w := fmtWidth fmt
  BitVec.ofNat 512 (digits w (fun _ => fillElem fmt fill) (512 / w))

/-- The `u`-th set bit of a mask (R286). -/
def nthBit (m : Nat) : Nat → Nat → Nat → Nat
  | 0, _, b => b
  | n + 1, u, b => if bitOf m b then (if u = 0 then b else nthBit m n (u - 1) (b + 1)) else nthBit m n u (b + 1)

/-- Number of set bits among the first `n`. -/
def popN (m : Nat) : Nat → Nat
  | 0 => 0
  | n + 1 => popN m n + (if bitOf m n then 1 else 0)

/-- Word `k` of entry `n` of a die's copy of the region table (R285). -/
def Die.rtWord (x : Die) (n k : Nat) : Nat := (SMap.get 0 x.regionTable (4 * n + k)).toNat

/-- Resolve a package address through the lowest-numbered valid entry that covers it (R286). -/
def Die.regionOf (x : Die) (a : Nat) : Option (Nat × Nat) :=
  ((List.range 64).find? fun n =>
      bitOf (x.rtWord n 3) 22 && x.rtWord n 0 ≤ a && a < x.rtWord n 1 && fld (x.rtWord n 3) 0 16 != 0).map fun n =>
    let dies := fld (x.rtWord n 3) 0 16
    let l := fld (x.rtWord n 3) 16 6
    let o := a - x.rtWord n 0
    let u := o / 2 ^ l
    let k := popN dies 16
    (nthBit dies 16 (u % k) 0, x.rtWord n 2 + u / k * 2 ^ l + o % 2 ^ l)

/-- The home tier of a directory die: near for a compute die, far for a far die (R316). -/
def homeKind (h : Nat) : Nat := if h < 8 then kNear else kFar
/-- The tier of a leaf as a kind of storage (R319). -/
def tierKind (t : Nat) : Nat := if t = 0 then kNear else if t = 1 then kFar else kCxl
/-- Bytes of a tier of a die (R14). -/
def tierBytes (t d : Nat) : Nat := if t = 0 then Config.nearBytes else if t = 1 then Config.farBytes else Config.cxlBytes d
/-- DIE matches TIER (R319, R320). -/
def dieMatches (t d : Nat) : Bool := if t = 0 then d < 8 else 8 ≤ d && d < 12

/-- A root entry is usable (R318). -/
def rootOk (h e : Nat) : Bool :=
  bitOf e 0 && fld e 1 14 == 0 && fld e 58 6 == 0 && fld e 15 43 * 2 ^ 15 + 2 ^ 15 ≤ tierBytes (if h < 8 then 0 else 1) h

/-- Byte offset, in the home tier of die `h`, of the leaf of logical offset `off`; none gives PLACE-MISS (R316, R321). -/
def Chip.leafAt (c : Chip) (h off : Nat) : Option Nat :=
  let x := (c.die h).dir
  let e := (SMap.get 0 x.roots (fld off 28 12)).toNat
  if x.en && off < 2 ^ 40 && rootOk h e then some (fld e 15 43 * 2 ^ 15 + 8 * fld off 16 12) else none

/-- The 64-bit word of a tier at a byte offset. -/
def State.tierWord (s : State) (kind d off : Nat) : BitVec 64 :=
  BitVec.ofNat 64 (leBytes (s.mem.bytes (memAddr kind d off) 8))

/-- The value of a leaf: the buffered one when the walker buffers it (R322). -/
def State.leafVal (s : State) (h la : Nat) : BitVec 64 :=
  match (s.chip.die h).dir.buf.find? fun p => p.1 == la with
  | some p => p.2.val
  | none => s.tierWord (homeKind h) h la

/-- FMT and GEOM may stand together (R320). -/
def fmtGeomOk (fmt geom : Nat) : Bool :=
  fmt ≤ 11 && (geom == 0 || fmt == 4 || fmt == 5 || fmt == 6) && (fmt != 6 || geom == 1)

/-- A frame lies in its tier and is not frame 0 of a home tier (R320, R321). -/
def frameOk (t d f : Nat) : Bool := (f + 1) * 2 ^ 16 ≤ tierBytes t d && (t == 2 || f != 0)

/-- A leaf of TIER 0-2 that is not malformed (R321). -/
def leafOk (v : Nat) : Bool :=
  fld v 0 2 != 3 && fld v 6 2 != 3 && fld v 41 1 == 0 && fld v 46 18 == 0 && dieMatches (fld v 0 2) (fld v 2 4) &&
    frameOk (fld v 0 2) (fld v 2 4) (fld v 8 28) && fmtGeomOk (fld v 36 4) (fld v 40 1)

/-- The incarnation of die `t` as die `d` holds it. -/
def Chip.incOf (c : Chip) (d t : Nat) : BitVec 8 := SMap.get 0 (c.die d).incs t

/-- Which translation cache serves an access (R307): 0 copy, 1 gather, 2 fabric, 3 sequencer or the house's one cache. -/
def Acc.cache (a : Acc) : Nat :=
  if 8 ≤ a.die || a.sh then 3 else match a.kind with
    | .record | .cword | .image => 3
    | _ => if a.path = 4 then 0 else if a.path = 5 then 1 else if a.path = 6 then 2 else 3
def Die.tc (x : Die) (n : Nat) : List TcEntry :=
  match n with | 0 => x.tcCopy | 1 => x.tcGather | 2 => x.tcFabric | _ => x.tcSeq
def Die.setTc (x : Die) (n : Nat) (l : List TcEntry) : Die :=
  match n with
  | 0 => { x with tcCopy := l } | 1 => { x with tcGather := l } | 2 => { x with tcFabric := l } | _ => { x with tcSeq := l }
/-- Entries of a cache (R307). -/
def tcSize (n : Nat) : Nat := match n with | 0 | 1 => 256 | 2 => 64 | _ => 32

/-- The entry an address hits (R308). -/
def tcFind (l : List TcEntry) (va : Nat) : Option TcEntry := l.find? fun e => va / 2 ^ e.bits == e.page
/-- The entry becomes the most recently used. DESIGN CHOICE, log entry 109. -/
def tcTouch (l : List TcEntry) (e : TcEntry) : List TcEntry := e :: l.filter (· != e)

/-- The monitors of a die, those of its switched-out parties included (R265, R293). -/
def Chip.monsOf (c : Chip) (d : Nat) : List Monitor :=
  (c.die d).monitors ++ (c.launches.map fun l => ((l.saved.filter fun p => p.die == d).map (·.monitors)).flatten).flatten
/-- Change the monitors of a die, those of its switched-out parties included. -/
def Chip.mapMons (c : Chip) (d : Nat) (f : Monitor → Monitor) : Chip :=
  let launches := c.launches.map fun l =>
    let saved := l.saved.map fun p => if p.die = d then { p with monitors := p.monitors.map f } else p
    { l with saved }
  { c.modDie d (fun x => { x with monitors := x.monitors.map f }) with launches }

/-- Change one access. -/
def modAcc (id : Nat) (f : Acc → Acc) : M :=
  M.mod fun c => { c with accs := c.accs.map fun a => if a.id = id then f a else a }
/-- Remove an access from the table. -/
def dropAcc (id : Nat) : M := M.mod fun c => { c with accs := c.accs.filter fun a => a.id != id }
def Chip.acc (c : Chip) (id : Nat) : Option Acc := c.accs.find? fun a => a.id == id
/-- A piece about an access that is still in the table; a stale event names none and does nothing. -/
def withAcc (id : Nat) (f : Acc → M) : M := M.look fun s => match s.chip.acc id with | some a => f a | none => M.skip

/-- An access meets a fault: its reply of class RS reports it `n` cycles later (R251, R357). `cause` is R341's for PAGE-FAULT. -/
def accFailIn (n id : Nat) (code : Code) (cause : Nat) : M :=
  M.seq (modAcc id fun a => { a with stage := .failed, code := code, cause := cause }) (schedIn n (.msgRs id))
/-- The fault is met at the requester itself. -/
def accFail (id : Nat) (code : Code) (cause : Nat) : M := accFailIn 0 id code cause

/-- The access reads. -/
def AccKind.isRead : AccKind → Bool
  | .ldWord | .ldRow | .scld | .plread | .mmld | .mmldRow | .nodeRead | .hostRd | .image | .restore => true
  | _ => false
/-- The access is an atomic event (R113). -/
def AccKind.isAtomic : AccKind → Bool
  | .atom | .red | .scrmw => true
  | _ => false
/-- The event in which the access performs at its home (R357). -/
def performEvent (a : Acc) : Instr :=
  if a.kind = .send then .msgXf a.id else if a.kind = .arm then .msgMg (.arm a.id)
  else if a.kind.isRead then .msgRd a.id else if a.kind.isAtomic then .msgAt a.id else .msgWr a.id

/-- The package that waits for the return of an access which came in over the optical fabric (R368). -/
def Acc.returns (a : Acc) : Option Nat := if a.path == 7 then a.node.map (·.1) else none

/-- A row-form copy-engine access. -/
def AccKind.isNode : AccKind → Bool
  | .nodeRead | .nodeWrite => true
  | _ => false

/-- A row of a context that its die saves or restores (R294, R295). -/
def AccKind.isContext : AccKind → Bool
  | .save | .restore => true
  | _ => false

/-- A row-form access of the launch path, a fault record or a context (R290, R291, R294, R338). -/
def AccKind.isLaunch : AccKind → Bool
  | .record | .cword | .image | .save | .restore => true
  | _ => false

/-- The package cycle in which an access to a wall or scratch performs, and the cycles its data then takes (R102, R236,
R239, R250, R361). DEDUCED, log entry 154. -/
def wallFigure (c : Chip) (a : Acc) (home : Nat) (scratch : Bool) : Nat × Nat :=
  if home = a.die then
    if a.kind = .arm then (c.now + 6, 2)
    else if a.kind.isNode then (if scratch then (c.now + 8, 0) else (c.now + 1, 8)) else (c.now + 6, 6)
  else let w := oneWay (c.hop a.die home); (c.now + w, w)

/-- A request of die `d` whose path to the stacks starts at die `h` reaches its own stack (R236, R239, R321). -/
def nearOwn (d h home : Nat) : Bool := d < 8 && h == home
/-- Cycles from the start of a position to the performing of a request that rides it (R236, R239). -/
def nearFigure (d h home : Nat) : Nat := if nearOwn d h home then 190 else 230

/-- The package cycle in which an access that left the walker of `h` in the present cycle performs in the far or the expansion tier
of `home`, and the cycles its data then takes (R236, R239, R250, R321). -/
def tierFigure (c : Chip) (a : Acc) (h home tier : Nat) : Nat × Nat :=
  match tier with
  | 1 =>
    if home = h then (c.now + 156, 220)
    else let k := c.hop h home; (c.now - 4 + 300 + 48 * (k - 1), 240 + 48 * (k - 1))
  | _ => (c.now + Config.deviceDelay c.free, if a.kind.isNode then 0 else 540)

/-- An SC operation performs no earlier than 256 cycles after its position starts, and its value arrives no earlier than
issue + 336 (R110, R254, R257). DEDUCED, log entry 28. -/
def scFloor (a : Acc) (f : Nat × Nat) : Nat × Nat :=
  match a.sc with
  | none => f
  | some q => let p := max f.1 (2 * q + 256); (p, max f.2 (a.at' + 336 - p))

/-- An entry of a reduction window leaves toward the home with everything combined into it (R256). -/
def redLeave (d entry : Nat) : M :=
  M.look fun s => M.iff ((s.chip.die d).reds.any fun e => e.acc == entry)
    (M.seq (modDie d fun x => { x with reds := x.reds.filter fun e => e.acc != entry })
      (withAcc entry fun a =>
        sched (s.chip.now + a.rest) (if a.stage = .toWalker then .walkerResolve a.id else performEvent a)))

/-- A request leaves the requester's die toward die `t`, where `ev` follows `delay` cycles later. A RED that crosses the gateway
joins an entry of its reduction window for the same row and FN, or opens one, which leaves 32 cycles later or when all 64
entries are in use (R256). -/
def leave (a : Acc) (t key delay : Nat) (ev : Instr) : M :=
  M.look fun s =>
    let c := s.chip
    if a.kind != .red || t == a.die then sched (c.now + delay) ev
    else
      let g := c.firstLink a.die t
      let mine := (c.die a.die).reds.filter fun e => e.link == g
      match mine.find? fun e => e.row == key && e.fn == a.fn with
      | some e => modAcc a.id fun y => { y with node := some (e.acc, 0) }
      | none => M.all [
          match mine.head? with
          | some e => M.iff (64 ≤ mine.length) (redLeave a.die e.acc)
          | none => M.skip,
          modAcc a.id fun y => { y with rest := delay },
          modDie a.die fun y => { y with reds := y.reds ++ [⟨g, a.id, key, a.fn, c.now⟩] },
          sched (c.now + 32) (.redWindowExpire a.die a.id)]

/-- The virtual form of a target. -/
def Target.isVirt : Target → Bool
  | .virt _ _ => true
  | _ => false

/-- The BASE of a virtual target. -/
def Target.base? : Target → Option Nat
  | .virt b _ => some b
  | _ => none

/-! ### Calendar positions (R236, R239, R371-R373) -/

/-- The die from which an access that has left its walker goes to its frame. -/
def Acc.from' (a : Acc) : Nat := if a.target.isVirt then a.dirDie else a.die
/-- The positions that may carry a request of an access to a stack of die `e`, in order (R283, R294, R371-R373). -/
def Chip.positions (c : Chip) (a : Acc) (e : Nat) (h : Hbm) : List Nat :=
  if a.die < 8 then ownedPos (if a.kind.isContext then 0x7F else (c.die a.die).terms.cal) a.die h else [sharedPos e h.level]
/-- The position that starts in cycle `q` has room for a request that was ready in cycle `t` (R236, R371). -/
def Chip.hasRoom (c : Chip) (a : Acc) (st level q t : Nat) : Bool :=
  if a.die < 8 then calUsed (c.die a.die).calendar q st < 48
  else calUsed c.sharedCal q st + c.cloveAhead st t < sharedCap level
/-- The start of the position of the rotation of cycle `u`, at or after it, that a request ready in cycle `t` rides. -/
def Chip.seat (c : Chip) (a : Acc) (e off t u : Nat) : Option Nat :=
  let h := c.stackAt e off
  ((c.positions a e h).map fun p => u / 128 * 128 + 2 * p).find? fun q => u ≤ q && c.hasRoom a (stackNo e off) h.level q t

/-- Take a place in that position. DEDUCED, log entry 106. -/
def takeRide (d e off start : Nat) : M :=
  modDie d fun x => { x with calendar := (start, stackNo e off, 1) :: (x.calendar.filter fun p => start ≤ p.1 + 4096) }

/-- An access ready in cycle `t` asks for a position again in cycle `v`. -/
def askPlace (a : Acc) (t v : Nat) : M := M.seq (modAcc a.id fun x => { x with ready := some t }) (sched v (performEvent a))

/-- An access rides the position that starts in cycle `q` to byte `off` of the near tier of die `e`; one made during a live repair of its
pseudo-channel performs 1,024 cycles later (R384). DEDUCED, log entry 144. -/
def ride (a : Acc) (e off q : Nat) : M :=
  M.look fun s =>
    let late := if nearOwn a.die a.from' e || a.die < 8 && a.from' = a.die then 0 else Config.extra s.chip.free
    let pause := if s.chip.pausing a.key then 1024 else 0
    let g := scFloor a (q + nearFigure a.die a.from' e + late + pause, 190)
    M.all [tickFree, takeRide a.die e off q, modAcc a.id fun x => { x with ready := none, rest := g.2 },
      if a.from' = a.die then leave a e a.key (g.1 - s.chip.now) (performEvent a) else sched g.1 (performEvent a)]

/-- An access ready in cycle `t` takes, from cycle `u` on, a position of that rotation to byte `off` of the near tier of die `e`; when
the rotation has none left for it, it asks again when the next one begins. -/
def board (a : Acc) (e off t u : Nat) : M :=
  M.look fun s =>
    match s.chip.seat a e off t u with
    | some q => ride a e off q
    | none => if s.chip.now < (u / 128 + 1) * 128 then askPlace a t ((u / 128 + 1) * 128)
      else match s.chip.seat a e off t ((u / 128 + 1) * 128) with
        | some q => ride a e off q
        | none => askPlace a t ((u / 128 + 2) * 128)

/-- Send an access to its home, where it performs at `f.1`; later under load unless it is the own wall. -/
def forward (a : Acc) (home key : Nat) (f : Nat × Nat) (load : Bool) : M :=
  M.look fun s =>
    let g := scFloor a (if load then (f.1 + Config.extra s.chip.free, f.2) else f)
    M.all [tickFree, modAcc a.id fun x => { x with stage := .forwarded, home := some home, key := key, rest := g.2 },
      leave a (if a.target.isVirt && a.dirDie != a.die then a.die else home) key (g.1 - s.chip.now) (performEvent a)]

/-- An ATS request leaves for the host, which answers in its own time (R309). DESIGN CHOICE, log entry 50. -/
def askHost (d pg : Nat) : M :=
  M.look fun s =>
    let n := s.chip.free
    let g := (Config.hostGrant n pg).map fun g =>
      let bits := if g.1 % 3 = 0 then 16 else if g.1 % 3 = 1 then 21 else 30
      ({ bits, pa := g.2.1 / 2 ^ bits * 2 ^ bits, rd := g.2.2.1, wr := g.2.2.2 } : AtsGrant)
    M.seq (sched (s.chip.now + 1 + Config.deviceDelay n) (.atsResponse d pg g)) tickFree

/-- Join the die's ATS request table for the 64 KiB page of `va` (R309). -/
def joinAts (a : Acc) (va : Nat) : M :=
  M.look fun s =>
    let pg := va / 2 ^ 16
    let x := s.chip.die a.die
    M.seq (modAcc a.id fun y => { y with stage := .ats, va := va })
      (modDie a.die fun y =>
        if x.ats.any fun r => r.page == pg then
          { y with ats := y.ats.map fun r => if r.page = pg then { r with accs := r.accs ++ [a.id] } else r }
        else if x.ats.length < 32 then { y with ats := y.ats ++ [⟨pg, [a.id], false⟩] }
        else { y with atsWait := y.atsWait ++ [a.id] })
      |>.seq (M.iff (!(x.ats.any fun r => r.page == pg) && x.ats.length < 32) (askHost a.die pg))

/-- Translate one virtual address for an access that writes or reads there, or (none) only learns of its page: continue with the
package address, or miss, or fault (R308, R366). DEDUCED, log entry 46. -/
def translateVa (a : Acc) (va : Nat) (write : Option Bool) (k : Nat → TcEntry → M) : M :=
  M.look fun s =>
    match tcFind ((s.chip.die a.die).tc a.cache) va with
    | none => joinAts a va
    | some e =>
      M.all [modDie a.die fun x => x.setTc a.cache (tcTouch (x.tc a.cache) e), modAcc a.id fun x => { x with va },
        if write == some true && !e.wr then accFail a.id .pageFault 3
        else if write == some false && !e.rd then accFail a.id .pageFault 2
        else k (e.pa + va % 2 ^ e.bits) e]

/-- The access writes its page (R308); PLWRITE writes a leaf. -/
def AccKind.writes (k : AccKind) : Bool := !(k.isRead || k = .arm || k = .plwrite)
/-- The permission that an access needs of the page it names (R308). -/
def AccKind.perm (k : AccKind) : Option Bool := some (k.writes || k = .plwrite)

/-- An OSEND's row enters the queue of its destination package; with 256 rows there it waits outside, and its die holds (R268).
DEDUCED, log entry 27. -/
def sendRow (a : Acc) (dest pa va : Nat) : M :=
  M.look fun s =>
    let q := SMap.get [] s.chip.oqueue dest
    let r : ORow := ⟨a.id, a.die, a.launch, a.region, if a.sh then 0 else a.prog, rowBase pa, va :: a.target.base?.toList, a.data, false⟩
    M.seq (dropAcc a.id) (
      if q.length < 256 then M.mod fun c => { c with oqueue := SMap.set [] c.oqueue dest (q ++ [r]) }
      else M.seq (M.mod fun c => { c with owait := SMap.set [] c.owait dest (SMap.get [] c.owait dest ++ [r]) })
        (modDie a.die fun x =>
          let hold (y : Ctx) : Ctx := { y with waits := y.waits ++ [.osend dest] }
          if a.sh then { x with shadow := hold x.shadow } else { x with main := hold x.main }))

/-- Send a translated access to the walker of its directory die, or to another package (R321, R366). -/
def toWalker (a : Acc) (pa : Nat) (e : TcEntry) (va word fmt : Nat) : M :=
  M.look fun s =>
    let c := s.chip
    if a.kind = .osend && pa / 2 ^ 56 == c.pkgId then accFail a.id .wrongSpace 0
    else if pa / 2 ^ 56 != c.pkgId then
      if c.npkg ≤ pa / 2 ^ 56 then accFail a.id .pageFault 4
      else if a.kind = .osend then sendRow a (pa / 2 ^ 56) pa va
      else if a.sc.isSome then accFail a.id .wheelScope 0
      else M.seq (modAcc a.id fun x => { x with stage := .forwarded, home := none, key := rowBase pa, va := va, word := word })
        (M.mod fun c =>
          let l := SMap.get [] c.oaccs (pa / 2 ^ 56) ++ [a.id]
          { c with oaccs := SMap.set [] c.oaccs (pa / 2 ^ 56) l })
    else match (c.die a.die).regionOf pa with
      | none =>
        -- a completion word in host memory leaves through its control port (R291)
        if a.kind = .cword then M.all [tickFree,
          modAcc a.id fun x => { x with stage := .forwarded, home := some a.die, key := memAddr kHost 0 (rowBase pa), va := va,
                                        inc := (c.die a.die).inc },
          sched (c.now + 1 + Config.deviceDelay c.free) (performEvent a)]
        else accFail a.id .pageFault 4
      | some (h, off) =>
        M.seq (modAcc a.id fun x => { x with
            stage := .toWalker, dirDie := h, off := off, va := va, word := word, fmt := fmt, inc := e.incs.getD h 0 })
          (leave a h (2 ^ 72 + 2 ^ 41 * h + rowBase off) (if h = a.die then 4 else oneWay (c.hop a.die h)) (.walkerResolve a.id))

/-- The leaf of the page of BASE, which gives its format (R323), seen through the region table and the directory; of a page of
another package only the format, which is open. -/
def State.pageLeaf (s : State) (d pa : Nat) : Option Nat :=
  if pa / 2 ^ 56 != s.chip.pkgId && pa / 2 ^ 56 < s.chip.npkg then some (Config.remoteFmt (pa / 2 ^ 16) % 12 * 2 ^ 36)
  else match (s.chip.die d).regionOf pa with
  | none => none
  | some (h, off) => match s.chip.leafAt h off with
    | none => none
    | some la => let v := (s.leafVal h la).toNat; if leafOk v then some v else none

/-- The directory die of a page that a translation names for a look at its leaf: a fault where the region table has none, and
TARGET-LOST where the entry holds another incarnation of it (R286, R314). -/
def atDirectory (a : Acc) (pa : Nat) (e : TcEntry) (k : Nat → Nat → M) : M :=
  M.look fun s =>
    match (s.chip.die a.die).regionOf pa with
    | none => accFail a.id .pageFault 4
    | some (h, off) =>
      M.seq (modAcc a.id fun x => { x with dirDie := h, off, inc := e.incs.getD h 0 })
        (if e.incs.getD h 0 != (s.chip.die h).inc || !(s.chip.die h).present then accFail a.id .targetLost 0 else k h off)

/-- The page of BASE, for the format its leaf gives, whatever its permissions (R308, R323). -/
def withPage (a : Acc) (base : Nat) (k : Nat → M) : M :=
  translateVa a base none fun pa e => M.look fun s =>
    let leaf : M := match s.pageLeaf a.die pa with
      | none => accFail a.id .pageFault 5
      | some lv => k lv
    if pa / 2 ^ 56 != s.chip.pkgId then (if pa / 2 ^ 56 < s.chip.npkg then leaf else accFail a.id .pageFault 4)
    else atDirectory a pa e fun _ _ => leaf

/-- The bit address of an element of width `w`, from its BASE (R89). -/
def virtBit (base : Nat) (bits : Int) (w : Nat) : Nat := (((base * 8 : Nat) + bits * (w : Int)) % (2 ^ 67 : Nat)).toNat
/-- The virtual address of the element's row. -/
def virtRow (base : Nat) (bits : Int) (w : Nat) : Nat := virtBit base bits w / 512 * 64

/-- Resolve a space-2 access: BASE's page first, for the width, then the element's row (R89, R249, R323).
DEDUCED, log entry 133. -/
def translate (a : Acc) (base : Nat) (bits : Int) : M :=
  if a.kind = .nodeRead && a.fn = 1 then
    -- the page of BASE is resolved for its format (R323)
    withPage a base fun lv =>
      M.seq (modAcc a.id fun x => { x with fmt := fld lv 36 5, stage := .done }) (schedIn 0 (.copyRowArrival a.id))
  else if a.kind = .nodeRead && a.fn = 3 then
    -- BASE's page of a MIGRATE: a directory without a usable leaf leaves the rest to Clove's launch checks (R303)
    translateVa a base none fun pa e => atDirectory a pa e fun _ _ => M.look fun s =>
      M.seq (modAcc a.id fun x => match s.pageLeaf a.die pa with
          | some lv => { x with fmt := fld lv 36 5, fn := 1, stage := .done }
          | none => { x with fn := 2, stage := .done })
        (schedIn 0 (.copyRowArrival a.id))
  else if a.kind = .nodeRead && a.fn = 2 then
    -- the page a MIGRATE names (R303)
    translateVa a base none fun pa e => atDirectory a pa e fun _ _ =>
      M.seq (modAcc a.id fun x => { x with stage := .done }) (schedIn 0 (.copyRowArrival a.id))
  else if a.kind.isNode || a.kind.isLaunch || ((a.kind = .plread || a.kind = .plwrite) && bits == 0) then
    -- the row's address is known outright
    translateVa a base a.kind.perm fun pa e => toWalker a pa e base a.word a.fmt
  else
    withPage a base fun lv =>
        let fmt := fld lv 36 4
        let w := fmtWidth fmt
        match a.fill with
        | some f =>
          if a.entry.isNone then dropAcc a.id
          else M.seq (modAcc a.id fun x => { x with data := fillRow fmt f }) (schedIn 0 (.landingArrival a.id))
        | none =>
        let va := virtRow base bits w
        let word := if fmt = 0 then 0 else virtBit base bits w % 512 / 64
        translateVa a va a.kind.perm fun pa e => toWalker a pa e va word fmt

/-! ### Timed transfers (R262, R263, R362) -/

/-- An entry of a gateway's router program is in force: reserved bits, IN and OUT name nothing that is not there (R362). -/
def routerOk (d e : Nat) : Bool :=
  let real (g : Nat) : Bool := g == 4 || (g < 4 && (peer d g).isSome)
  bitOf e 44 && fld e 45 19 == 0 && real (fld e 16 3) && real (fld e 19 3)

/-- The link of die `d` that leads back to die `e`, or 4 for the die's own rows. -/
def linkTo (d e : Nat) : Nat := if d = e then 4 else ((List.range 4).find? fun g => peer d g == some e).getD 4

/-- The links of the path from die `a` to die `t`: the number of the hop, the die whose gateway it leaves, the die before that one, the
link (R360). -/
def Chip.sendHops (c : Chip) (a t : Nat) : List (Nat × Nat × Nat × Nat) :=
  if t = a then [] else match c.path a t with
    | some l => (List.range l.length).zip (l.map (·.1) |>.zip ((a :: l.map (·.1)).zip (l.map (·.2))))
    | none => [(0, 99, 99, 99)]
/-- Cycles by which a SEND's row on its way is later than its figure (R263). -/
def Chip.sendLate (c : Chip) (b : Acc) : Nat :=
  match c.events.find? fun e => e.2 == .msgXf b.id with
  | some e => e.1 - (b.ready.getD 0 + 12 + 48 * c.hop b.die (b.home.getD 0))
  | none => 0

/-- Every link of the path of a SEND that leaves now is reserved for its row (R362): in the cycle in which it crosses, the link's entries
from where it arrives hold, among the first 12 of the entries that reserve the link then, more positions than older rows may take.
DEDUCED, log entry 121. -/
def Chip.fullyReserved (c : Chip) (a : Acc) (t : Nat) : Bool :=
  let x := c.die a.die
  let p := x.main.prog - x.phaseAt
  (c.sendHops a.die t).all fun (i, d, from', g) =>
    let y := c.die d
    let u := p + 48 * i + Config.sendCross % 13
    let on := y.router.filter fun q =>
      let e := q.2.toNat
      routerOk d e && fld e 28 16 == a.region && fld e 19 3 == g && fld e 0 16 ≤ u && u ≤ fld e 0 16 + fld e 22 6
    let mine := (on.take 12).filter fun q => fld q.2.toNat 16 3 == linkTo d from'
    let older := c.accs.filter fun b => b.kind == .send && b.id != a.id && b.stage == .forwarded && b.region == a.region &&
      (c.sendHops b.die (b.home.getD 0)).any fun (j, e, from2, h) => e == d && from2 == from' && h == g &&
        b.ready.getD 0 + 48 * j ≤ c.now + 48 * i && c.now + 48 * i ≤ b.ready.getD 0 + 48 * j + c.sendLate b
    (d == a.die || (y.comm && y.launch == x.launch && y.main.prog - y.phaseAt == p)) && older.length < mine.length

/-- A wall row of die `d` as a read of this package cycle sees it: as it stood before a service write of the cycle (R78). -/
def State.wallRow (s : State) (d bank row : Nat) : Row :=
  let a := wallAddr d bank row
  match s.chip.undo.find? fun p => p.1 == a with
  | some p => p.2
  | none => s.mem.row a

/-- A SEND's row leaves for the other die's staging: no earlier than its figure, and no later when every link is reserved
(R263, R362). -/
def sendOff (a : Acc) (t : Nat) (row : Row) : M :=
  M.look fun s =>
    let n := 12 + 48 * s.chip.hop a.die t
    M.seq (modAcc a.id fun x => { x with stage := .forwarded, data := row, inc := s.chip.incOf a.die t, ready := some s.chip.now })
      (if s.chip.fullyReserved a t then schedIn n (.msgXf a.id) else schedLoaded n (.msgXf a.id))

/-- The first step of an access: by its target. -/
def beginAcc (a : Acc) : M :=
  M.look fun s =>
    match a.target with
    | .beyond => if a.kind = .send then sendOff a (a.home.getD 0) a.data else schedIn 0 (.landingArrival a.id)
    | .wall d b r =>
      if a.kind = .send then sendOff a (a.home.getD 0) (s.wallRow d b r) else
      M.seq (modAcc a.id fun x => { x with inc := s.chip.incOf a.die d })
        (forward { a with inc := s.chip.incOf a.die d } d (wallAddr d b r) (wallFigure s.chip a d false) (d != a.die))
    | .scratch d r =>
      M.seq (modAcc a.id fun x => { x with inc := s.chip.incOf a.die d })
        (forward { a with inc := s.chip.incOf a.die d } d (memAddr kScratch d (64 * r)) (wallFigure s.chip a d true) false)
    | .virt base bits => translate a base bits
    | .phys d t off =>
      if 12 ≤ d || 3 ≤ t || !dieMatches t d || tierBytes t d < rowBase off + 64 then accFail a.id .pageFault 6
      else
      let page := (t == 0 && d < 8 || t == 1 && 8 ≤ d) && off < 0x5000 && 0x1000 ≤ off
      let b := { a with inc := s.chip.incOf a.die d, key := memAddr (tierKind t) d (rowBase off) }
      M.seq (modAcc a.id fun x => { x with inc := b.inc, stage := .forwarded, home := some d, key := b.key })
        (if t = 0 && !page then askPlace b (s.chip.now + 1) (s.chip.now + 1)
         else
          let f := if page then (if d = a.die then (s.chip.now + 12, 12)
                                 else let w := oneWay (s.chip.hop a.die d); (s.chip.now + w, w))
                   else tierFigure s.chip a a.die d t
          forward b d b.key (if t == 1 && !page then (f.1 + 4, f.2) else f) true)

/-- What a record tells of an operation of a stream, as the stream stands (R273, R339). -/
def Die.site (x : Die) (y : Ctx) (slot : Slot) : Site := ⟨slot, y.loops, y.rotb, x.ssnum, x.rgnId⟩

/-- A blank access of a die. -/
def blankAcc (c : Chip) (d : Nat) (k : AccKind) (t : Target) : Acc :=
  let x := c.die d
  { id := c.nextId, die := d, path := 6, kind := k, fn := 0, target := t, va := 0, word := 0, fmt := 0, fill := none, be := allBytes,
    data := 0, a := 0, b := 0, stage := .start, dirDie := 0, off := 0, home := none, key := 0, prog := x.ctx.prog,
    at' := c.now, entry := none, node := none, sc := none, inc := 0, sinc := x.inc, region := x.rgnId,
    launch := x.launch, noticed := false, cause := 0, code := .pageFault, bundle := x.ctx.pc,
    site := x.site x.ctx (if c.cur.die = d then c.cur.slot else .s0), sh := x.inShadow, rest := 0, retries := 0, ready := none,
    asked := false, marked := false, after := [], afterNodes := [], afterCyc := 0 }

/-- Put an access in the table and start it. -/
def startAcc (a : Acc) : M :=
  M.seq (M.mod fun c => { c with accs := c.accs ++ [a], nextId := max c.nextId (a.id + 1) }) (beginAcc a)

/-! ### Landing buffer and ports -/

/-- Take a landing-buffer entry for a request named `off` cycles from issue (R40, R41). -/
def takeEntry (id off : Nat) (w : LandWhat) : M :=
  M.look fun s => modMe fun x =>
    { x with entries := x.entries ++
        [{ id, due := x.ctx.prog + off, iss := x.ctx.prog, what := w, arrived := false, data := 0, sh := x.inShadow, fault := none,
           bundle := x.ctx.pc, site := x.site x.ctx s.chip.cur.slot }] }

/-- A port of a bank is taken for another row (R163): the bank, the cycle in which the access needs it, and that of the access that has
it. -/
def portClash (x : Die) (cyc bank row : Nat) (write : Bool) : Option (List Nat) :=
  (x.ctx.resv.find? fun r => r.cyc == cyc && r.bank == bank && r.write == write && r.row != row).map fun r => [bank, cyc, r.cyc]
/-- A sequencer-path write performing in cycle `t` would overtake a row of a pending XLOAD or XSAVE (R175): the bank and both cycles. -/
def overtakes (x : Die) (t bank row : Nat) : Option (List Nat) :=
  (x.ctx.resv.find? fun r => r.route && r.bank == bank && r.row == row && t < r.cyc).map fun r => [bank, t, r.cyc]
/-- Reserve a port. -/
def reserve (cyc bank row : Nat) (write route : Bool) : M :=
  modCx fun x => { x with resv := ⟨cyc, bank, row, write, route⟩ :: x.resv }

/-! ### Fault records and taking an exception (R273, R338-R343) -/

/-- Row 1 of a record: the loop stack, outermost level first (R339). -/
def loopRow (x : Site) : Row :=
  let ls := x.loops.reverse
  BitVec.ofNat 512 (pack (((List.range 6).map fun n => match ls[n]? with
      | some l => [(16, l.first), (16, l.last), (32, l.remain), (3, l.drain),
          (2, match l.kind with | .count => 0 | .queue => 1 | .swp => 2), (11, 0)]
      | none => [(80, 0)]).flatten ++ [(10, x.rotb.toNat)]))

/-- Row 2 of a record: the progress of the die's engines (R340). -/
def progressRow (x : Die) : Row :=
  let live := x.copy.nodes.filter fun n => n.state != .retired
  let oldest := (live.head?.map (·.id)).getD x.copy.next
  let bytes := (live.head?.map fun n => ((n.writes.filter (·.done)).map fun w =>
    ((w.elems.map (·.1)).eraseDups).length * fmtWidth (w.fmt % 16)).sum / 8).getD 0
  let retired := digits 1 (fun i =>
    let id := (x.copy.next + 65536 - 256 + i) % 65536
    if (live ++ x.copy.waiting).any (·.id == id) || (!x.copy.wrapped && x.copy.next ≤ id) then 0 else 1) 256
  BitVec.ofNat 512 (pack [(64, x.mace.kstate.toNat), (9, live.length),
    (5, (live.filter fun n => n.state == .launched && n.op != .migrate).length), (18, 0), (16, x.copy.next), (16, oldest),
    (64, bytes), (8, x.logF.length), (8, x.logC.length), (8, x.logG.length), (9, x.entries.length), (31, 0), (256, retired)])

/-- The head of a record (R273). -/
def headRow (d : Nat) (x : Die) (t : Trap) : Row :=
  BitVec.ofNat 512 (pack [(16, t.code.num), (3, if t.hdr then 0 else t.slot.num), (1, t.hdr.toNat), (4, d), (8, x.inc.toNat),
    (16, t.site.region), (16, 0), (32, t.bundle), (32, t.site.ssnum.toNat), (64, t.prog), (64, t.detail.toNat),
    (3, t.site.loops.length), (5, 0), (8, min 255 (x.logF.length + x.logC.length + x.logG.length)), (240, 0)])

/-- The rows of a record (R338). -/
def recordRows (d : Nat) (x : Die) (t : Trap) : List Row :=
  [headRow d x t, loopRow t.site, t.row2.getD (progressRow x), t.row3, t.row4, 0, 0, 0]

/-- Where the next record of a launch is written (R338). -/
def recordAddr (c : Chip) (l : Launch) : Nat := c.frp l.region + 512 * (l.records % 128)

/-- The record is counted to its launch, and FAULTREC names it; so does the fault it belongs to (R338, R343). -/
def countRecord (l : Launch) (p : PRecord) : M :=
  M.look fun s =>
    let addr := BitVec.ofNat 64 (recordAddr s.chip l)
    let mark (t : Trap) : Trap := if t.record = p.id then { t with addr := some addr } else t
    M.seq
      (M.mod fun c => { c with launches := c.launches.map fun m => if m.id = l.id then { m with records := m.records + 1 } else m })
      (modDie p.die fun y => { y with faultrec := addr, trap := y.trap.map mark, trapQ := y.trapQ.map mark })

/-- Row `k` of a record as the access that writes it. -/
def recordAcc (s : State) (l : Launch) (p : PRecord) (c : Chip) (k : Nat) : Acc :=
  { blankAcc c p.die .record (.virt (recordAddr s.chip l + 64 * k) 0) with
    path := 0, data := p.rows.getD k 0, region := l.region, launch := some l.id, a := BitVec.ofNat 64 p.id }

/-- A record takes its place among those of its launch, and is written: eight row writes through translation at FRP of the launch's
region (R338). -/
def placeRecord (p : PRecord) : M :=
  M.look fun s =>
    match s.chip.launches.find? fun l => l.id == p.launch with
    | none => M.skip
    | some l =>
      M.seq (countRecord l p) (M.each (List.range 8) fun k => M.look fun s' => startAcc (recordAcc s l p s'.chip k))

/-- The faults of a package cycle in the order of their dies; those of one die as they were raised (R338). -/
def byDie (p : PRecord) : List PRecord → List PRecord
  | [] => [p]
  | q :: l => if q.die ≤ p.die then q :: byDie p l else p :: q :: l
/-- The records of the package cycle take their places (R338). -/
def placeRecords : M :=
  M.look fun s => if s.chip.records.isEmpty then M.skip else
    M.seq (M.mod fun c => { c with records := [] }) (M.each (s.chip.records.foldl (fun l p => byDie p l) []) placeRecord)

/-- The record of a fault of die `d`, which is as `x` has it, is made (R338); at the end of the package cycle it takes its place. With no
launch there is none. -/
def writeRecordAs (launch : Option Nat) (d : Nat) (x : Die) (t : Trap) : M :=
  M.look fun s =>
    match s.chip.launches.find? fun l => some l.id == launch with
    | none => M.skip
    | some l => M.mod fun c => { c with records := c.records ++ [⟨l.id, d, c.nextId, recordRows d x t⟩], nextId := c.nextId + 1 }
/-- The record of a fault tells of the die as it stands. -/
def writeRecordOf (launch : Option Nat) (d : Nat) (t : Trap) : M := M.look fun s => writeRecordAs launch d (s.chip.die d) t
/-- The record of a fault of the launch that runs on the die. DESIGN CHOICE, log entry 12. -/
def writeRecord (d : Nat) (t : Trap) : M := M.look fun s => writeRecordOf (s.chip.die d).launch d t

/-- The trap a bundle of the issuing die raises: class I, with what its record carries. -/
def mkTrap (s : State) (code : Code) (slot : Slot) (hdr : Bool) (detail : Word) (row3 : Row) : Trap :=
  { code, slot, hdr, bundle := s.cx.pc, prog := s.cx.prog, site := s.me.site s.cx slot, detail, row3, row4 := 0, cls := 'I',
    record := s.chip.nextId, ready := false, entry := none }

/-- The fault of an access or a node, with what its record carries (R273, R338). -/
def Acc.trap (a : Acc) (code : Code) (cls : Char) (detail : Word) (row3 row4 : Row) : Trap :=
  { code, slot := a.site.slot, hdr := false, bundle := a.bundle, prog := a.prog, site := a.site, detail, row3, row4, cls, record := 0,
    ready := false, entry := none }
def Node.trap (n : Node) (code : Code) (cls : Char) (detail : Word) (row3 : Row) : Trap :=
  { code, slot := .c, hdr := false, bundle := n.bundle, prog := n.prog, site := n.site, detail, row3, row4 := n.row4, cls, record := 0,
    ready := false, entry := none }
/-- Row 3 of UNCORRECTABLE (R341): SOURCE and the device-physical address of the row, as R302 writes one: a bank wall,
which has no tier, has its die and byte offset. DESIGN CHOICE, log entry 124. -/
def uncRow3 (key : Nat) : Row :=
  let k := key / 2 ^ 64 % 8
  let src := if k = kNear then 1 else if k = kFar then 2 else if k = kCxl then 3 else 4
  let tier := if k = kFar then 1 else if k = kCxl then 2 else 0
  BitVec.ofNat 512 (pack [(8, src), (56, 0), (58, key % 2 ^ 64), (2, tier), (4, key / 2 ^ 67)])
/-- The fault of a request that has no access: a RECV, whose row its source has not sent. -/
def Entry.trap (e : Entry) (code : Code) (row3 : Row) : Trap :=
  { code, slot := e.site.slot, hdr := false, bundle := e.bundle, prog := e.iss, site := e.site, detail := 0, row3, row4 := 0, cls := 'L',
    record := 0, ready := false, entry := none }
/-- A fault of a die that no operation raised, at the position of its own stream. -/
def Die.trapAt (x : Die) (code : Code) (cls : Char) (slot : Slot) : Trap :=
  { code, slot, hdr := false, bundle := x.main.pc, prog := x.main.prog, site := x.site x.main slot, detail := 0, row3 := 0, row4 := 0, cls,
    record := 0, ready := false, entry := none }

/-- TAKING AN EXCEPTION (R336, R338, R343): die `d` holds on the fault, its record is written at FRP and FAULTREC names it;
when the record has performed, SHADOW_ENTRY saves nothing more of the stream, sets TCAUSE and PRIV.SHADOW, and issues from
TVEC in system mode, or with ISKIP = 1 resumes past the bundle (R272). A trap at issue ends the predicate block in force (R26). A fault
inside a shadow run is DOUBLE-FAULT (R342), whose record has no detail of its own (R338, R341). DEDUCED, log entry 30. -/
def takeTrap (d : Nat) (t : Trap) : M :=
  M.look fun s =>
    let x := s.chip.die d
    if x.inShadow then
      M.seq (modDie d fun y => { y with
          trap := some { t with code := .doubleFault, cls := 'F', detail := 0, row3 := 0, row4 := 0 } }) (schedIn 0 (.holdTimeout d))
    else M.all [modDie d fun y => { y with trap := some { t with record := s.chip.nextId, ready := x.launch.isNone } }, writeRecord d t,
      M.iff (t.cls == 'I' || t.cls == 'U') (modDie d fun y => { y with main := { y.main with block := none } }),
      M.iff x.launch.isNone (schedIn 0 (.shadowEntry d))]

/-- A fault of class F on die `d` that no bundle raised (R348): containment follows in HOLD_TIMEOUT. -/
def fatal (d : Nat) (t : Trap) : M := M.seq (modDie d fun y => { y with trap := some t }) (schedIn 0 (.holdTimeout d))
/-- DETAIL of a record holds a virtual address for these codes (R338). -/
def codeHasVa : Code → Bool
  | .pageFault => true
  | .targetLost => true
  | .uncorrectable => true
  | _ => false

/-- Arrivals at a local barrier (R259). -/
def Barrier.arrive (b : Barrier) (n : Nat) : Barrier :=
  if b.target = 0 then b
  else
    let t := b.count.toNat + n
    { b with count := BitVec.ofNat 16 (t % b.target.toNat), phase := b.phase + BitVec.ofNat 16 (t / b.target.toNat) }

/-- `n` arrivals at barrier `b` of a die. -/
def Die.arrive (x : Die) (b n : Nat) : Die :=
  { x with barriers := SMap.set {} x.barriers b ((SMap.get {} x.barriers b).arrive n) }

/-- The barrier the running slot arrives at, if its ARV bit is set (R47). -/
def State.arvOf (s : State) : Option Nat :=
  match s.chip.cur.bundle with
  | some b => if bitOf b.arv s.chip.cur.slot.num then some b.arb else none
  | none => none

/-- The running slot's arrival, `lat` program cycles after issue (R47). -/
def arriveAt (lat : Nat) : M :=
  M.look fun s => match s.arvOf with
    | some b => later lat (.barr b 1)
    | none => M.skip

/-- A check at issue fails: the issuing die takes the exception with its slot and detail. -/
def trapWith (code : Code) (detail : Word) (row3 : Row) : M :=
  M.look fun s => takeTrap s.cd (mkTrap s code s.chip.cur.slot false detail row3)
def trap (code : Code) : M := trapWith code 0 0

/-- The stream goes past a squashed bundle (R26, R154): it takes its issue cycle and its stall count, and levels that end on
it close. -/
def Ctx.squash (y : Ctx) (stall : Nat) : Ctx :=
  { y with
    pc := y.pc + 1
    nextIssue := y.prog + 1 + stall
    block := match y.block with
      | some b => if b.pat.length ≤ 1 then none else some { b with pat := b.pat.drop 1 }
      | none => none
    loops := y.loops.dropWhile fun l => l.last == y.pc }

/-- First bundle of the code range a stream runs in, and the bundles of that range (R281, R282); a shadow run has the whole
code store of its die (R277). -/
def Chip.codeBase (c : Chip) (d : Nat) : Nat := let x := c.die d; if x.inShadow then 0 else x.terms.codeBase d
def Chip.codeSize (c : Chip) (d : Nat) : Nat := let x := c.die d; if x.inShadow then Config.codeStore d else x.terms.codeSize d
/-- The bundle at an address of the code store of die `d`. -/
def State.bundleAt (s : State) (d pc : Nat) : Row := s.mem.row (memAddr kCode d (64 * (s.chip.codeBase d + pc)))

/-- THE RETURN (R272, R297, R343): the shadow run ends; a class-I fault leaves its bundle squashed and issue continues, from the
cycle after its own where a USER-TRAP has had its cycle already, under the descriptor of its bundle (R26); a class-L access translates again while the die holds; a class-N
fault stands as recorded. The next fault of class N whose record has performed is served then. -/
def returnFrom (d : Nat) : M :=
  M.seq (modDie d fun y => { y with inShadow := false, tcause := 0 })
    (M.look fun s =>
      match (s.chip.die d).trap with
      | none => M.skip
      | some t =>
        M.all [modDie d fun y => { y with trap := none },
          M.iff (t.cls == 'I' || t.cls == 'U') (modDie d fun y =>
            let z := y.main.squash (fld (s.bundleAt d y.main.pc).toNat 0 4)
            { y with main := if t.cls == 'U' then { z with nextIssue := z.nextIssue - 1, block := y.main.block } else z }),
          match t.entry with
          | none => M.skip
          | some e => withAcc e fun a =>
              M.all [modDie d fun y =>
                  let entries := y.entries.map fun en => if a.entry == some en.id then { en with fault := none } else en
                  { y with entries },
                modAcc a.id fun b => { b with stage := .start, asked := false }, beginAcc { a with asked := false }],
          M.iff ((s.chip.die d).trapQ.any (·.ready)) (schedIn 0 (.shadowEntry d))])

/-- A fault of class N (R336, R338, R343): its record is written at once, and the handler serves it once the record has performed
and no other fault is served; the die goes on till then. DEDUCED, log entry 40. -/
def nodeTrap (d : Nat) (t : Trap) : M :=
  M.look fun s =>
    let free := (s.chip.die d).launch.isNone
    M.all [modDie d fun y => { y with trapQ := y.trapQ ++ [{ t with record := s.chip.nextId, ready := free }] }, writeRecord d t,
      M.iff free (schedIn 0 (.shadowEntry d))]

/-- The exception of a check that names a bank, and the cycles of a conflict (R76, R163, R175). DEDUCED, log entry 95. -/
def trapNaming (code : Code) (detail : Word) (names : List Nat) : M :=
  M.look fun s => takeTrap s.cd { mkTrap s code s.chip.cur.slot false detail 0 with names }
/-- The exception when something is to be named, else the rest. -/
def orTrap (code : Code) (found : Option (List Nat)) (m : M) : M :=
  match found with | some l => trapNaming code 0 l | none => m

/-- A check of the meaning: the exception when it fails, else the rest. -/
def need (ok : Bool) (code : Code) (m : M) : M := if ok then m else trap code
/-- A privileged operation (R124). -/
def privileged (m : M) : M := M.look fun s => if s.sysMode then m else trap .privilegedOp
/-- An operation the house profile refuses (R125). -/
def computeOnly (m : M) : M := M.look fun s => if s.house then trap .illegalOp else m

end Sys2Proof.Machine
end

