-- ==== Sys2Proof/Machine/Operands.lean ====
section
/-!
DEFINITION. Every operand form: layout records and place (R87-R91), scalar wall operands (R163-R166), the rows of the A slot
(R168-R171), and the Exchange (R79-R84).
-/

namespace Sys2Proof.Machine

/-! ### Layout records (R87-R90) -/

def Rec.f (r : Rec) (lo w : Nat) : Nat := fld r.toNat lo w
def Rec.base (r : Rec) : Nat := Rec.f r 0 64
def Rec.row0 (r : Rec) : Nat := Rec.f r 0 11
def Rec.die (r : Rec) : Nat := Rec.f r 60 4
def Rec.space (r : Rec) : Nat := Rec.f r 64 4
def Rec.rank (r : Rec) : Nat := Rec.f r 68 4
def Rec.fmt (r : Rec) : Nat := Rec.f r 72 4
def Rec.fill (r : Rec) : Nat := Rec.f r 80 16
def Rec.fbank (r : Rec) : Nat := Rec.f r 96 10
def Rec.lbc (r : Rec) : Nat := Rec.f r 106 4
def Rec.skew (r : Rec) : Nat := Rec.f r 110 4
def Rec.ext (r : Rec) (d : Nat) : Nat := Rec.f r (128 + 24 * d) 24
def Rec.str (r : Rec) (d : Nat) : Int := sint 40 (Rec.f r (344 + 40 * d) 40)
def Rec.ver (r : Rec) : Nat := Rec.f r 704 16
def Rec.defrow (r : Rec) : Nat := Rec.f r 720 16

/-- Coordinate d of a coordinate register (R93). -/
def coordX (c : Coord) (d : Nat) : Int := sint 24 (fld c.toNat (24 * d) 24)

/-- The lowest set bit of a field, counted from bit `lo`. -/
def lowBit (r : Rec) (lo : Nat) : Nat → Nat
  | 0 => lo
  | n + 1 => if bitOf r.toNat lo then lo else lowBit r (lo + 1) n

/-- The bits that failing conditions of R88 offer. -/
def recOffers (r : Rec) : List Nat :=
  let res (lo w : Nat) : List Nat := if Rec.f r lo w == 0 then [] else [lowBit r lo w]
  let wall := Rec.space r ≤ 1
  (if wall then res 11 49 else []) ++ (if Rec.space r == 0 then res 60 4 else []) ++
    (if Rec.space r == 1 && 8 ≤ Rec.die r then [lowBit r 60 4] else []) ++
    (if 3 ≤ Rec.space r then [lowBit r 64 4] else []) ++
    (if Rec.rank r == 0 then [68] else if 9 < Rec.rank r then [lowBit r 68 4] else []) ++
    (if 12 ≤ Rec.fmt r || (Rec.space r == 2 && Rec.fmt r != 0) then [lowBit r 72 4] else []) ++
    res 76 4 ++ (if 11 ≤ Rec.lbc r then [lowBit r 106 4] else []) ++ res 114 14 ++ res 736 32

/-- The check TLW makes (R88): none when the record passes, else the lowest offending bit. -/
def recCheck (r : Rec) : Option Nat :=
  match recOffers r with
  | [] => none
  | b :: l => some (l.foldl Nat.min b)

/-- DETAIL of a LAYOUT-RESERVED record (R273). -/
def layoutDetail (tl bit : Nat) (named : Bool) (kept : Rec) : Word :=
  BitVec.ofNat 64 (pack [(9, tl), (10, bit), (1, named.toNat), (12, 0), (16, Rec.ver kept)])

/-- The element offset of a coordinate function (R89): none is BEYOND. -/
def offsetFrom (r : Rec) (x : Nat → Int) : Nat → Option Int
  | 0 => some 0
  | n + 1 =>
    match offsetFrom r x n with
    | none => none
    | some o => if x n < 0 || (Rec.ext r n : Int) ≤ x n then none else some (o + x n * Rec.str r n)

def offsetOf (r : Rec) (x : Nat → Int) : Option Int := offsetFrom r x (Rec.rank r)

/-- Where a wall element lies (R89). -/
structure WallPos where
  bank : Nat
  row : Int
  elem : Nat
  lvl : Int
  /-- Bank position before FBANK: (bank - FBANK) mod 1024. -/
  pos : Nat
  deriving DecidableEq, Repr

/-- The bank position of tensor row `s` of level `lvl` (R89). -/
def bankPos (r : Rec) (lvl : Int) (s : Int) : Nat := ((s + (Rec.skew r : Int) * lvl) % ((2 ^ Rec.lbc r : Nat) : Int)).toNat

/-- Place tensor row `n` (R89). -/
def rowPos (r : Rec) (n : Int) (elem : Nat) : WallPos :=
  let nb : Int := ((2 ^ Rec.lbc r : Nat) : Int)
  let lvl := n / nb
  let pos := bankPos r lvl (n - lvl * nb)
  ⟨(Rec.fbank r + pos) % 1024, (Rec.row0 r : Int) + lvl, elem, lvl, pos⟩

/-- The tensor row and element in it of element offset `o` at width `w` (R89). -/
def tensorRow (o : Int) (w : Nat) : Int × Nat :=
  let epr : Int := ((512 / w : Nat) : Int)
  (o / epr, (o % epr).toNat)

/-- Place an element of a wall record (R89). -/
def wallPos (r : Rec) (o : Int) : WallPos :=
  let t := tensorRow o (fmtWidth (Rec.fmt r))
  rowPos r t.1 t.2

/-- The row lies in the wall, 0-1535 (R76). -/
def rowIn (row : Int) : Bool := 0 ≤ row && row < 1536

/-! ### The scalar bus (R163-R166) -/

/-- Where an S-slot wall access goes: fill, the own wall, the house scratch, or a compute die's wall, whose fill is a request too
(R164). -/
inductive SWall where
  | fill (row : Row)
  | farFill (row : Row)
  | own (bank row : Nat)
  | scratch (row : Nat)
  | remote (die bank row : Nat)
  | bad (code : Code) (detail : Word) (names : List Nat)
  deriving DecidableEq, Repr

/-- Resolve the operand of LDW, STW, LDROW and STROW (R164, R165, R76, R88). -/
def swall (s : State) (tl c : Nat) : SWall :=
  let r := s.cx.rtl tl
  let sp := Rec.space r
  if Rec.rank r == 0 then .bad .layoutReserved (layoutDetail tl 68 true r) []
  else if (if s.house then 2 ≤ sp else 1 ≤ sp) then .bad .wrongSpace 0 []
  else match offsetOf r (coordX (s.cx.rc c)) with
    | none => if sp == 1 then .farFill (fillRow (Rec.fmt r) (Rec.fill r)) else .fill (fillRow (Rec.fmt r) (Rec.fill r))
    | some o =>
      let p := wallPos r o
      if s.house && sp == 0 then
        if 0 ≤ p.row && p.row < 256 then .scratch (p.bank % 16 * 256 + p.row.toNat) else .bad .wallRange 0 [p.bank]
      else if rowIn p.row && s.me.bankOk p.bank then
        (if sp == 0 then .own p.bank p.row.toNat else .remote (Rec.die r) p.bank p.row.toNat)
      else .bad .wallRange 0 [p.bank]

/-! ### The Exchange (R79-R84) -/

/-- Trace one row through a Beneš network of 2^m ports (R80): `bit s w` is switch w of stage s; the network owns stages
lo..hi and, in them, the switches from `base` on. The answer is the egress port of ingress port `p`. -/
def benesOut (bit : Nat → Nat → Bool) : Nat → Nat → Nat → Nat → Nat → Nat
  | 0, _, _, _, p => p
  | 1, lo, _, base, p => if bit lo base then 1 - p else p
  | m + 2, lo, hi, base, p =>
    let half := if bit lo (base + p / 2) then 1 - p % 2 else p % 2
    let q := benesOut bit (m + 1) (lo + 1) (hi - 1) (base + half * 2 ^ m) (p / 2)
    2 * q + (if bit hi (base + q) then 1 - half else half)

/-- Output of an octet with a 20-bit setting (R80). -/
def octetOut (setting p : Nat) : Nat := benesOut (fun s w => bitOf setting (4 * s + w)) 3 0 4 0 p
/-- Output of a middle plane with an 832-bit setting (R80). -/
def planeOut (setting p : Nat) : Nat := benesOut (fun s w => bitOf setting (64 * s + w)) 7 0 12 0 p

/-- Egress port of ingress port `p` under a route store entry (R79, R84). -/
def entryOut (e : Route) (p : Nat) : Nat :=
  let x := e.toNat
  let j := octetOut (fld x (20 * (p / 8)) 20) (p % 8)
  let o := planeOut (fld x (2560 + 832 * j) 832) (p / 8)
  8 * o + octetOut (fld x (9216 + 20 * o) 20) j

/-- Egress port of ingress port `p` under a route field; none when idle (R81). -/
def routeOut (field : Nat) (entry : Route) (p : Nat) : Option Nat :=
  match field % 4 with
  | 0 => none
  | 1 => some p
  | 2 => some (p / 8 * 8 + octetOut (fld field 2 20) (p % 8))
  | _ => some (entryOut entry p)

/-- The route store entry a field names, as it stands at issue (R84). -/
def State.routeEntry (s : State) (field : Nat) : Route := SMap.get 0 s.me.xw (fld field 2 12)

/-- The read route's rows by engine port (R82): those of the bundle's A-slot read that reach a port. DEDUCED, log entry 136. -/
def State.portRows (s : State) : List (Nat × Row) :=
  match s.chip.cur.bundle with
  | none => []
  | some b =>
    s.chip.cur.reads.filterMap fun p => (routeOut b.xr (s.routeEntry b.xr) p.1).map fun e => (e, p.2)

/-- The valid row at an engine port (R82). -/
def portRow (rows : List (Nat × Row)) (port : Nat) : Option Row := (rows.find? fun p => p.1 == port).map (·.2)

/-- A row driven into the write fabric: ingress port, byte enables, data. -/
abbrev Drive := Nat × BitVec 64 × Row

/-- Rows driven into the write fabric reach the banks the A slot names, `lat` cycles after issue (R82). -/
def driveRows (lat path : Nat) (rows : List Drive) : M :=
  M.look fun s =>
    match s.chip.cur.bundle with
    | none => M.skip
    | some b =>
      let names := s.chip.cur.names
      M.each rows fun d =>
        match routeOut b.xw (s.routeEntry b.xw) d.1 with
        | none => M.skip
        | some bank => M.each (names.filter fun n => n.1 == bank) fun n => laterW lat bank n.2 d.2.1 d.2.2 path

/-- Drive delays of the engines that drive rows in the bundle: VST 0, KSTORE 2, MEPI and MDRAIN 12 (R190, R224, R208). -/
def driveDelays (b : Bundle) : List Nat :=
  b.ops.filterMap fun p =>
    match p.2 with
    | .vst _ => some 0
    | .kstore _ => some 2
    | .mepi _ => some 12
    | .mdrain _ => some 12
    | _ => none

/-! ### Rows the A slot names (R168-R171) -/

/-- Rows of an anchor: BEYOND, or (bank, row) of each bank. -/
inductive ARows where
  | beyond (r : Rec)
  | rows (l : List (Nat × Int))
  deriving DecidableEq, Repr

/-- The banks of the anchor's level, or of its diagonal (R91, R171). -/
def aRows (r : Rec) (c : Coord) (diag : Bool) : ARows :=
  match offsetOf r (coordX c) with
  | none => .beyond r
  | some o =>
    let p := wallPos r o
    let nb := 2 ^ Rec.lbc r
    .rows ((List.range nb).map fun k =>
      if diag then ((Rec.fbank r + (p.pos + k) % nb) % 1024, p.row + (k : Int))
      else ((Rec.fbank r + k) % 1024, p.row))

/-- The first bank outside the range, or with a row outside the wall (R76). -/
def aBad (x : Die) (l : List (Nat × Int)) : Option (List Nat) :=
  (l.find? fun p => !(rowIn p.2 && x.bankOk p.1)).map fun p => [p.1]

/-- The cycles in which each named row is written: one per driving engine (R82, R163). -/
def nameCycles (s : State) : List Nat :=
  match s.chip.cur.bundle with
  | none => []
  | some b => if b.xw % 4 = 0 then [] else (driveDelays b).map fun d => s.cx.prog + 6 + d

/-- Name rows for reading: checks, ports, and the rows at the read ingress ports (R163, R168, R169). -/
def nameReads (tl c : Nat) (diag : Bool) (k : M) : M :=
  M.look fun s =>
    let r := s.cx.rtl tl
    if Rec.rank r == 0 then trapWith .layoutReserved (layoutDetail tl 68 true r) 0
    else if Rec.space r != 0 then trap .wrongSpace
    else match aRows r (s.cx.rc c) diag with
      | .beyond _ =>
        let f := fillRow (Rec.fmt r) (Rec.fill r)
        M.seq (modCur fun u => { u with
          reads := (List.range (2 ^ Rec.lbc r)).map fun n => ((Rec.fbank r + n) % 1024, f) }) k
      | .rows l =>
        orTrap .wallRange (aBad s.me l) <| orTrap .bankConflict (l.findSome? fun p => portClash s.me s.cx.prog p.1 p.2.toNat false) <|
        M.all [M.each l fun p => reserve s.cx.prog p.1 p.2.toNat false false,
          modCur fun u => { u with reads := l.map fun p => (p.1, s.wallRow s.cd p.1 p.2.toNat) }, k]

/-- Name rows for writing (R163, R168, R169). -/
def nameWrites (tl c : Nat) (diag : Bool) : M :=
  M.look fun s =>
    let r := s.cx.rtl tl
    if Rec.rank r == 0 then trapWith .layoutReserved (layoutDetail tl 68 true r) 0
    else if Rec.space r != 0 then trap .wrongSpace
    else match aRows r (s.cx.rc c) diag with
      | .beyond _ => M.skip
      | .rows l =>
        let cyc := nameCycles s
        orTrap .wallRange (aBad s.me l) <|
        orTrap .bankConflict (l.findSome? fun p => cyc.findSome? fun t => portClash s.me t p.1 p.2.toNat true) <|
        M.seq (M.each l fun p => M.each cyc fun t => reserve t p.1 p.2.toNat true false)
          (modCur fun u => { u with names := l.map fun p => (p.1, p.2.toNat) })

end Sys2Proof.Machine
end

