-- ==== Sys2Proof/Machine/Flags.lean ====
section
/-!
DEFINITION. Number formats, rounding and every flag computation (R53-R74), and the special functions (R186, R208): exact values,
one rounding function, block scaling, OX4, the summation tree's arithmetic and key orders.
-/

namespace Sys2Proof.Machine

/-! ### Flags (R63) -/

/-- FPCTL's eight flags, NV at bit 0. -/
abbrev Flags := BitVec 8
def fNV : Flags := 1
def fOF : Flags := 2
def fUF : Flags := 4
def fNX : Flags := 8
def fFMT : Flags := 16
def fACCSAT : Flags := 32
def fISAT : Flags := 64
def fGMISS : Flags := 128
/-- A flag under a condition. -/
def flagIf (b : Bool) (f : Flags) : Flags := if b then f else 0

/-! ### Exact values -/

/-- An exact value: a NaN (with `nv`, one that sets NV), an infinity, or ±(m + δ)·2^e, where 0 < δ < 1 when `more` holds and
δ = 0 otherwise. -/
inductive Num where
  | nan (nv : Bool)
  | inf (neg : Bool)
  | fin (neg : Bool) (m : Nat) (e : Int) (more : Bool)
  deriving DecidableEq, Repr

namespace Num

/-- +0. -/
def zero : Num := .fin false 0 0 false
/-- An integer. -/
def ofInt (n : Int) : Num := .fin (n < 0) n.natAbs 0 false
def isNan : Num → Bool
  | .nan _ => true
  | _ => false
def isInf : Num → Bool
  | .inf _ => true
  | _ => false
def isZero : Num → Bool
  | .fin _ m _ more => m == 0 && !more
  | _ => false
def sign : Num → Bool
  | .nan _ => false
  | .inf n => n
  | .fin n _ _ _ => n
def neg : Num → Num
  | .nan s => .nan s
  | .inf n => .inf (!n)
  | .fin n m e t => .fin (!n) m e t
/-- x · 2^k. -/
def scale (k : Int) : Num → Num
  | .fin n m e t => .fin n m (e + k) t
  | x => x

/-- The exact product; ∞ · 0 is NaN and sets NV (R180). -/
def mul (a b : Num) : Num :=
  match a, b with
  | .nan s, .nan t => .nan (s || t)
  | .nan s, _ => .nan s
  | _, .nan t => .nan t
  | .inf n, y => if y.isZero then .nan true else .inf (n != y.sign)
  | x, .inf n => if x.isZero then .nan true else .inf (n != x.sign)
  | .fin n m e s, .fin k p f t => .fin (n != k) (m * p) (e + f) (s || t)

/-- Two mantissas at the smaller of two exponents. -/
def align (m : Nat) (e : Int) (p : Nat) (f : Int) : Nat × Nat × Int :=
  if e ≤ f then (m, p * 2 ^ (f - e).toNat, e) else (m * 2 ^ (e - f).toNat, p, f)

/-- The exact sum of two exact values; an exact zero sum is +0, or -0 under RDN, and -0 + -0 is -0 (R180). DEDUCED, log entry 22. -/
def add (rm : RMode) (a b : Num) : Num :=
  match a, b with
  | .nan s, .nan t => .nan (s || t)
  | .nan s, _ => .nan s
  | _, .nan t => .nan t
  | .inf n, .inf k => if n = k then .inf n else .nan true
  | .inf n, _ => .inf n
  | _, .inf n => .inf n
  | .fin n m e s, .fin k p f t =>
    if m = 0 && p = 0 then .fin (n && k || rm == .rdn) 0 0 false
    else if m = 0 then .fin k p f t
    else if p = 0 then .fin n m e s
    else
      let (x, y, g) := align m e p f
      if n = k then .fin n (x + y) g false
      else if x = y then .fin (rm == .rdn) 0 0 false
      else if y < x then .fin n (x - y) g false
      else .fin k (y - x) g false

/-- |a| < |b|, for values that are no NaN. -/
def absLt (a b : Num) : Bool :=
  match a, b with
  | .nan _, _ => false
  | _, .nan _ => false
  | .inf _, _ => false
  | _, .inf _ => true
  | .fin _ m e s, .fin _ p f t =>
    if m = 0 then p != 0 || (t && !s) else if p = 0 then false
    else let (x, y, _) := align m e p f; x < y || (x == y && t && !s)

/-- a < b in numeric order, where -0 = +0. -/
def lt (a b : Num) : Bool :=
  if a.isNan || b.isNan then false
  else if a.isZero && b.isZero then false
  else match a.sign, b.sign with
    | true, true => absLt b a
    | true, false => true
    | false, true => false
    | false, false => absLt a b

/-- The integer of a value that is one. -/
def toInt : Num → Int
  | .fin n m e _ => let k := if 0 ≤ e then m * 2 ^ e.toNat else m / 2 ^ (-e).toNat; if n then -(k : Int) else k
  | _ => 0

/-- a = b in numeric order. -/
def eq (a b : Num) : Bool := !a.isNan && !b.isNan && !lt a b && !lt b a

end Num

/-! ### Formats (R53-R56) -/

/-- Fields of a floating format: exponent bits, fraction bits, bias; IEEE specials, or the single NaN of E4M3. -/
structure FFmt where
  eb : Nat
  mb : Nat
  bias : Nat
  ieee : Bool
  e4m3 : Bool
  deriving DecidableEq, Repr

/-- The model's code of BIN128, beside the codes of R53. -/
def cBin128 : Nat := 16

/-- The floating formats of R55. -/
def ffmt (code : Nat) : Option FFmt :=
  match code with
  | 1 => some ⟨8, 23, 127, true, false⟩
  | 2 => some ⟨8, 7, 127, true, false⟩
  | 3 => some ⟨5, 10, 15, true, false⟩
  | 4 => some ⟨4, 3, 7, false, true⟩
  | 5 => some ⟨5, 2, 15, true, false⟩
  | 6 => some ⟨2, 1, 1, false, false⟩
  | 16 => some ⟨15, 112, 16383, true, false⟩
  | _ => none

def FFmt.width (f : FFmt) : Nat := 1 + f.eb + f.mb
/-- Exponent of the smallest normal. -/
def FFmt.emin (f : FFmt) : Int := 1 - (f.bias : Int)
/-- The largest finite magnitude as mantissa and exponent. -/
def FFmt.largest (f : FFmt) : Nat × Int :=
  if f.ieee then (2 ^ (f.mb + 1) - 1, ((2 ^ f.eb - 2 : Nat) : Int) - f.bias - f.mb)
  else if f.e4m3 then (14, 5) else (3, 1)
/-- The code of the largest finite magnitude. -/
def FFmt.largestCode (f : FFmt) : Nat :=
  if f.ieee then (2 ^ f.eb - 1) * 2 ^ f.mb - 1 else if f.e4m3 then 0x7E else 7
/-- The default NaN (R56); E2M1 has none and gives code 0 (R64). -/
def FFmt.nan (f : FFmt) : Nat :=
  if f.ieee then (2 ^ f.eb - 1) * 2 ^ f.mb + 2 ^ (f.mb - 1) else if f.e4m3 then 0x7F else 0
/-- IFZ and OFZ act on the format (R63). -/
def flushes (code : Nat) : Bool := 1 ≤ code && code ≤ 5

/-- decode(fmt, bits) (R55, R62); a signalling NaN carries `nv`. -/
def decodeNum (code bits : Nat) : Num :=
  match ffmt code with
  | none => Num.ofInt (sint (fmtWidth code) bits)
  | some f =>
    let m := fld bits 0 f.mb
    let e := fld bits f.mb f.eb
    let s := bitOf bits (f.width - 1)
    if f.ieee && e == 2 ^ f.eb - 1 then (if m = 0 then .inf s else .nan (!bitOf m (f.mb - 1)))
    else if f.e4m3 && e == 15 && m == 7 then .nan false
    else if e = 0 then .fin s m (f.emin - f.mb) false
    else .fin s (2 ^ f.mb + m) ((e : Int) - f.bias - f.mb) false

/-- The code is a nonzero subnormal. -/
def isSubnormal (code bits : Nat) : Bool :=
  match ffmt code with
  | none => false
  | some f => fld bits f.mb f.eb == 0 && fld bits 0 f.mb != 0

/-- flush_in(fmt, decode(fmt, bits)) (R69). -/
def inNum (fp : Fpctl) (code bits : Nat) : Num :=
  if fp.ifz && flushes code && isSubnormal code bits then
    .fin (match ffmt code with | some f => bitOf bits (f.width - 1) | none => false) 0 0 false
  else decodeNum code bits

/-! ### Rounding (R62-R65) -/

/-- Round m·2^e (with δ) to a multiple of 2^q by a mode: the multiple, and whether it is exact. -/
def roundMag (rm : RMode) (n : Nat) (neg : Bool) (m : Nat) (e : Int) (more : Bool) (rnd : Nat) (q : Int) : Nat × Bool :=
  if q ≤ e then (m * 2 ^ (e - q).toNat, !more)
  else
    let d := (q - e).toNat
    let k := m / 2 ^ d
    let r := m % 2 ^ d
    let exact := r == 0 && !more
    let half := 2 ^ (d - 1)
    let up : Bool := match rm with
      | .rne => half < r || (r == half && (more || k % 2 == 1))
      | .rna => half ≤ r
      | .rtz => false
      | .rup => !neg && !exact
      | .rdn => neg && !exact
      | .sr => rnd % 2 ^ n < r * 2 ^ n / 2 ^ d
    (if up then k + 1 else k, exact)

/-- How an operation rounds: mode, SRBITS, and output flush (R63, R66). -/
structure RndCtx where
  rm : RMode
  n : Nat
  ofz : Bool
  deriving DecidableEq, Repr

/-- SRBITS. -/
def Fpctl.srbits (f : Fpctl) : Nat := f.sr4.val + 4
/-- The rounding of an operation that has a random operand. -/
def Fpctl.rc (f : Fpctl) : RndCtx := ⟨f.rm, f.srbits, f.ofz⟩
/-- The rounding of an operation with no random operand: SR acts as RNE (R65). -/
def Fpctl.rcNo (f : Fpctl) : RndCtx := ⟨if f.rm = .sr then .rne else f.rm, f.srbits, f.ofz⟩

/-- The overflow rule of R64: the code, by target and mode. -/
def overflowCode (f : FFmt) (rm : RMode) (neg : Bool) : Nat :=
  let inf := (2 ^ f.eb - 1) * 2 ^ f.mb
  let s := if neg then 2 ^ (f.width - 1) else 0
  if !f.ieee then s + f.largestCode
  else match rm with
    | .rtz => s + f.largestCode
    | .rup => if neg then s + f.largestCode else inf
    | .rdn => if neg then s + inf else f.largestCode
    | _ => s + inf

/-- floor(log2 |x|) of a nonzero mantissa and exponent. -/
def ilog (m : Nat) (e : Int) : Int := (Nat.log2 m : Int) + e

/-- The magnitude k·2^q exceeds m·2^e. -/
def above (k : Nat) (q : Int) (m : Nat) (e : Int) : Bool := let (x, y, _) := Num.align k q m e; y < x

/-- Rounding into a floating format: the code and the flags OF, UF, NX (R64, R63). -/
def roundFloat (code : Nat) (f : FFmt) (c : RndCtx) (neg : Bool) (m : Nat) (e : Int) (more : Bool) (rnd : Nat) : Nat × Flags :=
  let s := if neg then 2 ^ (f.width - 1) else 0
  if m = 0 then (s, 0)
  else
    let top := ilog m e
    let q := max (top - f.mb) (f.emin - f.mb)
    let (k, exact) := roundMag c.rm c.n neg m e more rnd q
    let (lk, lq) := f.largest
    if above k q lk lq then (overflowCode f c.rm neg, fOF ||| fNX)
    else
      let (k', _) := roundMag c.rm c.n neg m e more rnd (top - f.mb)
      let tiny := code != 6 && top < f.emin && !(top == f.emin - 1 && k' == 2 ^ (f.mb + 1))
      let sub := k != 0 && k < 2 ^ f.mb
      if c.ofz && flushes code && sub then (s, fUF ||| fNX)
      else
        let body := if k = 0 then 0 else (q + f.mb + f.bias).toNat * 2 ^ f.mb + k - 2 ^ f.mb
        (s + body, flagIf (tiny && !exact) fUF ||| flagIf (!exact) fNX)

/-- sat_int(lo, hi, n) with its flags (R62). -/
def satInt (lo hi n : Int) : Int × Flags :=
  if n < lo then (lo, fISAT ||| fNX) else if hi < n then (hi, fISAT ||| fNX) else (n, 0)

/-- Range of an integer format (R62). -/
def intRange (code : Nat) : Int × Int :=
  let w := fmtWidth code
  (-((2 ^ (w - 1) : Nat) : Int), ((2 ^ (w - 1) : Nat) : Int) - 1)

/-- Two's-complement code of an integer in `w` bits. -/
def intCode (w : Nat) (n : Int) : Nat := (n % ((2 ^ w : Nat) : Int)).toNat

/-- Rounding to an integer by mode: the integer, and NX when the rounding changed the value. -/
def roundInt (c : RndCtx) (neg : Bool) (m : Nat) (e : Int) (more : Bool) (rnd : Nat) : Int × Bool :=
  let (k, exact) := roundMag c.rm c.n neg m e more rnd 0
  (if neg then -(k : Int) else (k : Int), !exact)

/-- round_to(fmt, mode, x, rnd) (R62, R64, R65): the code and the flags it sets. -/
def roundTo (code : Nat) (c : RndCtx) (x : Num) (rnd : Nat) : Nat × Flags :=
  match ffmt code with
  | some f =>
    match x with
    | .nan nv => (f.nan, flagIf (nv || code == 6) fNV)
    | .inf neg =>
      let s := if neg then 2 ^ (f.width - 1) else 0
      if f.ieee then (s + (2 ^ f.eb - 1) * 2 ^ f.mb, 0) else (s + f.largestCode, fOF ||| fNX)
    | .fin neg m e more => roundFloat code f c neg m e more rnd
  | none =>
    let (lo, hi) := intRange code
    let w := fmtWidth code
    match x with
    | .nan _ => (0, fNV)
    | .inf neg => (intCode w (if neg then lo else hi), fISAT ||| fNX)
    | .fin neg m e more =>
      let (n, nx) := roundInt c neg m e more rnd
      let (v, fl) := satInt lo hi n
      (intCode w v, fl ||| flagIf nx fNX)

/-- A conversion between two element formats (R68). DEDUCED, log entry 135. -/
def convert (fp : Fpctl) (c : RndCtx) (src dst bits rnd : Nat) : Nat × Flags := roundTo dst c (inNum fp src bits) rnd

/-! ### Block scaling (R57-R59) and OX4 (R60, R61) -/

/-- x times the scale an E8M0 code stands for (R58). -/
def scaled (scale : Nat) (x : Num) : Num := if scale = 255 then .nan false else x.scale ((scale : Int) - 127)

/-- The input of largest magnitude so far, for a block of finite inputs. -/
def maxAbs : List Num → Num → Num
  | [], b => b
  | x :: l, b => maxAbs l (if Num.absLt b x then x else b)

/-- OR of flags over a list of results. -/
def orFlags : List (Nat × Flags) → Flags
  | [] => 0
  | p :: l => p.2 ||| orFlags l

/-- mx_quantise (R59): the scale code, the element codes and the flags. -/
def mxQuantise (code : Nat) (c : RndCtx) (xs : List Num) (rnds : List Nat) : Nat × List Nat × Flags :=
  if xs.any fun x => x.isNan || x.isInf then (255, xs.map fun _ => 0, fNV)
  else
    let top := maxAbs xs Num.zero
    match top with
    | .fin _ m e _ =>
      if m = 0 then (127, xs.map fun x => if x.sign then 2 ^ (fmtWidth code - 1) else 0, 0)
      else
        let emax : Int := if code = 6 then 2 else if code = 4 then 8 else 15
        let se := min 127 (max (-127) (ilog m e - emax))
        let rs := (xs.zip (rnds ++ List.replicate xs.length 0)).map fun p => roundTo code c (p.1.scale (-se)) p.2
        ((se + 127).toNat, rs.map (·.1), orFlags rs)
    | _ => (127, [], 0)

/-- Element j of a quad. -/
def nib (quad j : Nat) : Nat := fld quad (4 * j) 4

/-- ox4_decode (R60): four values, and FMT. -/
def ox4Decode (quad : Nat) : List Num × Flags :=
  let mark (j : Nat) : Bool := nib quad j == 8
  let a := mark 0
  let b := mark 1
  let c := mark 2
  let d := mark 3
  let int (j : Nat) : Num := Num.ofInt (sint 4 (nib quad j))
  let z := Num.zero
  let q : Num := .nan false
  match (a, b, c, d) with
  | (false, false, false, false) => ([int 0, int 1, int 2, int 3], 0)
  | (true, false, false, false) => ([decodeNum 4 (fld quad 8 8), int 1, z, z], 0)
  | (false, true, false, false) => ([int 0, decodeNum 4 (fld quad 8 8), z, z], 0)
  | (false, false, true, false) => ([z, z, decodeNum 4 (fld quad 0 8), int 3], 0)
  | (false, false, false, true) => ([z, z, int 2, decodeNum 4 (fld quad 0 8)], 0)
  | (true, false, true, false) => ([q, z, q, z], fFMT)
  | (true, false, false, true) => ([q, z, z, q], fFMT)
  | (false, true, true, false) => ([z, q, q, z], fFMT)
  | (false, true, false, true) => ([z, q, z, q], fFMT)
  | _ => ([q, q, q, q], fFMT)

/-- Index of the largest magnitude, the lowest on a tie. -/
def argMax (xs : List Num) : Nat → Nat
  | 0 => 0
  | n + 1 => let b := argMax xs n; if Num.absLt (xs.getD b .zero) (xs.getD (n + 1) .zero) then n + 1 else b

/-- ox4_encode (R61): the quad and the flags; NX is set when a decoded value differs from its input. DEDUCED, log entry 25. -/
def ox4Encode (c : RndCtx) (v : List Num) (rnds : List Nat) : Nat × Flags :=
  if v.any Num.isNan then (0x8008, fNV)
  else
    let qs := (v.zip (rnds ++ [0, 0, 0, 0])).map fun p => roundTo 10 c p.1 p.2
    let n (i : Nat) : Int := sint 32 ((qs.getD i (0, 0)).1)
    let sat := orFlags qs &&& fISAT
    let small := (List.range 4).all fun i => (n i).natAbs ≤ 7
    let r : Nat × Flags :=
      if small then (digits 4 (fun i => intCode 4 (n i)) 4, 0)
      else
        let o := argMax v 3
        let p := if o % 2 = 0 then o + 1 else o - 1
        let ps := satInt (-7) 7 (n p)
        let g := roundTo 4 c (v.getD o .zero) (rnds.getD o 0)
        let half := 8 * 2 ^ (4 * (o % 2)) + intCode 4 ps.1 * 2 ^ (4 * (p % 2))
        (if o < 2 then half + g.1 * 256 else half * 256 + g.1, ps.2 ||| g.2)
    let changed := ((ox4Decode r.1).1.zip v).any fun p => !Num.eq p.1 p.2
    (r.1, ((r.2 ||| sat) &&& ~~~fNX) ||| flagIf changed fNX)

/-! ### Special functions (R186, R208) -/

/-- floor(√x), the bits of the root from bit `n` down. -/
def rootBits (x : Nat) : Nat → Nat → Nat
  | 0, r => r
  | n + 1, r => let t := r + 2 ^ n; rootBits x n (if t * t ≤ x then t else r)

/-- Fixed-point one, and the constants ln 2, 1/ln 2 and 2·√(2/π), all scaled by 2^340. -/
def fixOne : Nat := 2 ^ 340
def fixLn2 : Nat := 1552472753214506609814386706714515997639500943322908694723277334626013631332104235060901432890736597333
def fixInvLn2 : Nat := 3231268632397048050285194455912483530120604959188080231085610272067897583579003293357694054285468539685
def fixGelu : Nat := 3574115499846128427630944377092382381682120234484114339948640138763540692390871802087475601558056009076

/-- Taylor sum of e^y, y in fixed point below 1: term `t` is y^k/k!. -/
def expSum (y : Nat) : Nat → Nat → Nat → Nat
  | 0, _, _ => 0
  | n + 1, k, t => t + expSum y n (k + 1) (t * y / fixOne / (k + 1))

/-- 2^f for f in [0, 1), in fixed point. -/
def exp2Fix (f : Nat) : Nat := expSum (f * fixLn2 / fixOne) 90 0 fixOne

/-- m·2^e in fixed point, truncated. -/
def toFix (m : Nat) (e : Int) : Nat := if 0 ≤ e + 340 then m * 2 ^ (e + 340).toNat else m / 2 ^ (-(e + 340)).toNat

/-- 2^x (R186): exact at integers, else a 340-bit approximation and a remainder. DEDUCED, log entry 105. -/
def exp2Num (x : Num) : Num :=
  match x with
  | .nan nv => .nan nv
  | .inf neg => if neg then Num.zero else .inf false
  | .fin neg m e _ =>
    if m = 0 then .fin false 1 0 false
    else if 16 ≤ ilog m e then .fin false 1 (if neg then -65536 else 65536) true
    else
      let t := toFix m e
      let n := t / fixOne
      let f := t % fixOne
      if f = 0 then .fin false 1 (if neg then -(n : Int) else (n : Int)) false
      else if neg then .fin false (exp2Fix (fixOne - f)) (-(n : Int) - 1 - 340) true
      else .fin false (exp2Fix f) ((n : Int) - 340) true

/-- Sum of z^(2k+1)/(2k+1), z in fixed point at most 1/3. -/
def atanhSum (zz : Nat) : Nat → Nat → Nat → Nat
  | 0, _, _ => 0
  | n + 1, k, t => t / k + atanhSum zz n (k + 2) (t * zz / fixOne)

/-- log2 x of a positive value (R186). -/
def log2Num (x : Num) : Num :=
  match x with
  | .nan nv => .nan nv
  | .inf neg => if neg then .nan true else .inf false
  | .fin neg m e _ =>
    if m = 0 then .inf true
    else if neg then .nan true
    else
      let l := Nat.log2 m
      let k : Int := (l : Int) + e
      if m = 2 ^ l then Num.ofInt k
      else
        let y := toFix m (-(l : Int))
        let z := (y - fixOne) * fixOne / (y + fixOne)
        let fr := 2 * atanhSum (z * z / fixOne) 120 1 z * fixInvLn2 / fixOne
        if 0 ≤ k then .fin false (k.toNat * fixOne + fr) (-340) true
        else .fin true ((-k).toNat * fixOne - fr - 1) (-340) true

/-- 1/x (R186). -/
def rcpNum (x : Num) : Num :=
  match x with
  | .nan nv => .nan nv
  | .inf neg => .fin neg 0 0 false
  | .fin neg m e _ =>
    if m = 0 then .inf neg
    else let k := Nat.log2 m + 200; .fin neg (2 ^ k / m) (-e - k) (2 ^ k % m != 0)

/-- 1/√x (R186). -/
def rsqNum (x : Num) : Num :=
  match x with
  | .nan nv => .nan nv
  | .inf neg => if neg then .nan true else Num.zero
  | .fin neg m e _ =>
    if m = 0 then .inf neg
    else if neg then .nan true
    else
      let m' := if e % 2 = 0 then m else 2 * m
      let h := (if e % 2 = 0 then e else e - 1) / 2
      let k := Nat.log2 m' + 200
      let r := rootBits (2 ^ (2 * k) / m') (k + 2) 0
      .fin false r (-h - k) (r * r * m' != 2 ^ (2 * k))

/-- x times the logistic function of ±v, v in fixed point (340 bits): exact but for the remainder. -/
def timesSigmoid (neg : Bool) (m : Nat) (e : Int) (v : Nat) : Num :=
  let t := v * fixInvLn2 / fixOne
  let n := t / fixOne + 1
  let g := exp2Fix (n * fixOne - t)
  let den := 2 ^ (340 + n) + g
  let s := (if neg then g else 2 ^ (340 + n)) * 2 ^ 1000 / den
  .fin neg (m * s) (e - 1000) true

/-- A gate x·σ(v(x)) of R208 and R186: `big` bounds |x| by a power of two, past which σ is 0 or 1 to every format. -/
def gate (big : Int) (v : Nat → Int → Nat) (x : Num) : Num :=
  match x with
  | .nan nv => .nan nv
  | .inf neg => if neg then .fin true 0 0 false else .inf false
  | .fin neg m e _ =>
    if m = 0 then .fin neg 0 0 false
    else if big ≤ ilog m e then
      (if neg then .fin true 1 (-400) true else .fin false (m * 2 ^ 200 - 1) (e - 200) true)
    else if ilog m e < -160 then .fin neg (m * 2 ^ 200 - (if neg then 1 else 0)) (e - 201) true
    else timesSigmoid neg m e (v m e)

/-- GELU by its tanh form (R186): 2u = 2√(2/π)(x + 0.044715 x³). -/
def geluNum (x : Num) : Num :=
  gate 4 (fun m e =>
    let y := toFix m e
    (y + y * y / fixOne * y / fixOne * 44715 / 1000000) * fixGelu / fixOne) x

/-- SiLU x/(1+e^-x) (R208). -/
def siluNum (x : Num) : Num := gate 9 toFix x

/-! ### The summation tree (R71) -/

/-- A BIN128 rounding of the tree: RNE, no flags. -/
def roundB (x : Num) : Nat := (roundTo cBin128 ⟨.rne, 8, false⟩ x 0).1

/-- A cell's part: the exact sum of its products, NaN by the rules of R71, and NV. -/
def partOf (ps : List (Num × Num)) : Num × Flags :=
  let prods := ps.map fun p => Num.mul p.1 p.2
  let mixed := prods.contains (.inf true) && prods.contains (.inf false)
  if mixed || prods.any Num.isNan then
    (.nan false, flagIf (mixed || prods.any fun p => p == .nan true) fNV)
  else (prods.foldl (Num.add .rne) (.fin true 0 0 false), 0)

/-- One step of the tree: s := round(s + part), s as BIN128 bits. -/
def treeStep (s : Nat) (p : Num) : Nat :=
  roundB (match Num.add .rne (decodeNum cBin128 s) p with
    | .nan _ => .nan false
    | x => x)

/-- sat128 (R69). -/
def sat128 (n : Int) : Int × Flags :=
  let top : Int := ((2 ^ 127 : Nat) : Int) - 1
  if top < n then (top, fACCSAT) else if n < -top then (-top, fACCSAT) else (n, 0)

/-! ### Key orders (R74) -/

/-- key_bits(fmt, x) of R74. -/
def keyBits (code x : Nat) : Nat :=
  let w := fmtWidth code
  let y := x % 2 ^ w
  match ffmt code with
  | some _ => if bitOf y (w - 1) then 2 ^ w - 1 - y else y + 2 ^ (w - 1)
  | none => (y + 2 ^ (w - 1)) % 2 ^ w

/-! ### FPCTL as a word (R63) -/

/-- The rounding mode of a code; 6 and 7 name none. -/
def rmodeOf (n : Nat) : Option RMode :=
  match n with
  | 0 => some .rne | 1 => some .rtz | 2 => some .rup | 3 => some .rdn | 4 => some .rna | 5 => some .sr | _ => none
def RMode.code : RMode → Nat
  | .rne => 0 | .rtz => 1 | .rup => 2 | .rdn => 3 | .rna => 4 | .sr => 5

/-- FPCTL as CSRR reads it. -/
def Fpctl.word (f : Fpctl) : Word :=
  BitVec.ofNat 64 (pack [(3, f.rm.code), (1, f.ifz.toNat), (1, f.ofz.toNat), (3, 0), (5, f.srbits), (3, 0), (8, f.flags.toNat)])

/-- SRBITS a write stores: clamped to 4-16. -/
def sr4Of (n : Nat) : Fin 13 := if n ≤ 4 then 0 else if h : n - 4 < 13 then ⟨n - 4, h⟩ else 12

/-- A write of FPCTL (R63): reserved bits ignored, RM 6 and 7 leave RM, flags written 1 clear. -/
def Fpctl.write (f : Fpctl) (w : Word) : Fpctl :=
  let n := w.toNat
  { rm := (rmodeOf (fld n 0 3)).getD f.rm, ifz := bitOf n 3, ofz := bitOf n 4, sr4 := sr4Of (fld n 8 5),
    flags := f.flags &&& ~~~BitVec.ofNat 8 (fld n 16 8) }

/-- Set flags in a die's FPCTL. -/
def Die.orFlags (x : Die) (f : Flags) : Die := { x with fpctl := { x.fpctl with flags := x.fpctl.flags ||| f } }

/-- An asynchronous node of a die retires: its flags end set in the package cycle (R67), and its arrival follows the cycle's
BINITs (R259). -/
def Die.raise (x : Die) (f : Flags) (arv : Option Nat) : Die :=
  { x with nodeFlags := x.nodeFlags ||| f, nodeArvs := x.nodeArvs ++ arv.toList }

/-- The issuing operation sets flags when it retires, `lat` program cycles after issue: the bundles after that cycle read
them (R67). -/
def laterF (lat : Nat) (f : Flags) : M := if f = 0 then M.skip else later (lat + 1) (.flags f)

end Sys2Proof.Machine
end

