-- ==== Sys2Proof/Machine/Csr.lean ====
section
/-!
DEFINITION. Control and status registers (R128, R278, R280, R285): reading and writing each, and the count queues CQSTAT shows.
-/

namespace Sys2Proof.Machine

/-! ### Count queues (R44, R45) -/

/-- Counts of queue `q` that have landed. -/
def Die.counts (x : Die) (q : Nat) : List (BitVec 32) := SMap.get [] x.queues q

/-- Pops of queue `q` issued by bundles before the one that issues now. -/
def Die.popsBefore (x : Die) (q : Nat) : Nat :=
  (x.entries.filter fun e => (e.sh != x.inShadow || e.iss < x.ctx.prog) && (match e.what with
    | .pop _ k => k == q
    | .loopq k _ _ _ => k == q
    | _ => false)).length

/-- Counts of a queue as CQSTAT shows them: landed pushes less pops issued before the reading bundle (R45). -/
def Die.held (x : Die) (q : Nat) : Nat := (x.counts q).length - x.popsBefore q
/-- Pushes in flight to a queue. -/
def Ctx.pushes (x : Ctx) (q : Nat) : Nat :=
  (x.pend.filter fun p => match p.land with | .push k _ => k == q | _ => false).length
/-- Pushes in flight of both streams of a die. -/
def Die.pushes (x : Die) (q : Nat) : Nat := x.main.pushes q + x.shadow.pushes q

/-! ### Reading -/

/-- WHEELPOS in a package cycle (R108). -/
def wheelPos (now : Nat) : Word := BitVec.ofNat 64 (pack [(6, now / 2 % 64), (1, now % 2), (57, now / 128)])

/-- LSTK (R31): the level SEL counts from the outermost. -/
def Ctx.lstk (x : Ctx) : Word :=
  BitVec.ofNat 64 (pack [(3, x.loops.length), (5, 0), (3, x.lsel.toNat), (21, 0),
    (32, ((x.loops.reverse[x.lsel.toNat]?).map (·.remain)).getD 0)])

/-- CQSTAT (R45). -/
def Die.cqstat (x : Die) : Word :=
  BitVec.ofNat 64 (pack [(7, x.held 0), (1, 0), (7, x.held 1), (1, 0), (7, x.held 2), (1, 0), (7, x.held 3)])

/-- DIEID (R128). -/
def Die.dieid (x : Die) (d : Nat) : Word := BitVec.ofNat 64 (pack [(4, d), (8, x.inc.toNat)])

/-- Start vectors in the launch queue (R278). -/
def Chip.queued (c : Chip) : Nat := (c.launches.filter fun l => l.state == .queued).length

/-- LQSTAT (R278). -/
def Chip.lqstat (c : Chip) : Word :=
  BitVec.ofNat 64 (pack [(7, c.queued), (9, 0), (16, c.refused.toNat), (16, c.svdrop.toNat)])

/-- SEM (R280). -/
def Chip.sem (c : Chip) : Word := BitVec.ofNat 64 (pack [(4, c.semOwner), (12, 0), (16, c.semGrants.toNat)])

/-- PRIV (R278). DEDUCED, log entry 120. -/
def Die.privWord (x : Die) (d : Nat) : Word :=
  BitVec.ofNat 64 (pack [(1, (x.sysMode d).toNat), (1, x.inShadow.toNat), (1, if 8 ≤ d then 1 else 0)])

/-- RGN (R278). -/
def Die.rgn (x : Die) : Word := BitVec.ofNat 64 (pack [(16, x.rgnId), (2, x.view), (3, x.dev)])

/-- The value a CSR holds, by number (R128, R167, R278). -/
def readCsr (c : Chip) (d n : Nat) : Word :=
  let x := c.die d
  if n = 0x000 then (if 8 ≤ d then 0 else x.fpctl.word)
  else if n = 0x001 then BitVec.ofNat 64 x.sbchk.toNat
  else if n = 0x002 then BitVec.ofNat 64 x.ctx.rotb.toNat
  else if n = 0x003 then x.ctx.lstk
  else if n = 0x004 then x.holdcnt
  else if n = 0x005 then (if 8 ≤ d then 0 else BitVec.ofNat 64 x.ssnum.toNat)
  else if n = 0x006 then wheelPos c.now
  else if n = 0x007 then x.dieid d
  else if n = 0x008 then x.cqstat
  else if n = 0x009 then x.faultrec
  else if n = 0x100 then x.privWord d
  else if n = 0x101 then x.rgn
  else if n = 0x102 then BitVec.ofNat 64 x.tvec.toNat
  else if n = 0x103 then BitVec.ofNat 64 x.tcause.toNat
  else if n = 0x108 then c.lqstat
  else if n = 0x10A then c.sem
  else if n = 0x10C then c.rtbase
  else if n = 0x10D then BitVec.ofNat 64 x.pend.toNat
  else if 0x200 ≤ n && n < 0x300 then SMap.get 0 x.regionTable (n - 0x200)
  else 0

/-! ### Writing -/

/-- A per-die CSR takes a value (R7, R29, R31, R34, R63, R278); writes of RO fields and registers are ignored. -/
def Die.writeCsr (x : Die) (d n : Nat) (w : Word) : Die :=
  if n = 0x000 then (if 8 ≤ d then x else { x with fpctl := x.fpctl.write w })
  else if n = 0x001 then { x with sbchk := BitVec.ofNat 3 w.toNat }
  else if n = 0x002 then x.modCtx fun y => { y with rotb := BitVec.ofNat 10 w.toNat }
  else if n = 0x003 then x.modCtx fun y => { y with lsel := BitVec.ofNat 3 (fld w.toNat 8 3) }
  else if n = 0x102 then { x with tvec := BitVec.ofNat 32 w.toNat }
  else x

/-- The number names a package CSR (R278). -/
def packageCsr (n : Nat) : Bool := n == 0x108 || n == 0x10A || n == 0x10C || (0x200 ≤ n && n < 0x300)

/-- A region table word takes a value (R285): low bits zero and V kept, or a mask error that clears V. -/
def Die.writeRt (x : Die) (i : Nat) (w : Word) : Die :=
  let set (m : SMap Word) (j v : Nat) : SMap Word := SMap.set 0 m j (BitVec.ofNat 64 v)
  if i % 4 = 3 then
    let lstr := fld w.toNat 16 6
    let badL := lstr < 16 || 37 < lstr
    let badD := fld w.toNat 12 4 != 0
    let v := if badL || badD then 0 else fld w.toNat 22 1
    { x with regionTable := set x.regionTable i (pack [(12, w.toNat), (4, 0), (6, if badL then 0 else lstr), (1, v)]) }
  else { x with regionTable := set x.regionTable i (w.toNat / 2 ^ 16 * 2 ^ 16) }

/-- A package CSR takes a value in every copy (R279, R280, R285); `who` is the writer's SEM id. -/
def Chip.writePackage (c : Chip) (who n : Nat) (w : Word) : Chip :=
  if n = 0x10A then (if w = 0 && c.semOwner = who && who != 0 then { c with semOwner := 0 } else c)
  else if 0x200 ≤ n && n < 0x300 then { c with dies := c.dies.map fun x => x.writeRt (n - 0x200) w }
  else c

/-- A read of SEM by id `who` (R280): acquires a free SEM. -/
def Chip.acquire (c : Chip) (who : Nat) : Chip :=
  if c.semOwner = 0 then { c with semOwner := who, semGrants := c.semGrants + 1 } else c

/-- SEM id of a die's sequencer (R280). -/
def semId (d : Nat) : Nat := 4 + d

end Sys2Proof.Machine
end

