-- ==== Sys2Proof/Machine/Request.lean ====
section
/-!
DEFINITION. Requests of the fabric path: named loads and their landing entries (R40, R41), stores, and the fences that make
them wait (R99).
-/

namespace Sys2Proof.Machine

/-- The access has performed at its home (R95). DEDUCED, log entry 63. -/
def Acc.settled (a : Acc) : Bool := a.stage == .performed || a.stage == .done

/-- An access that has not yet performed. -/
def Chip.pending (c : Chip) (id : Nat) : Bool := c.accs.any fun a => a.id == id && !a.settled

/-- The home of an access, as far as its requester knows it (R101, R103). -/
def Acc.knownHome (a : Acc) : Option Nat :=
  match a.target with
  | .wall d _ _ => if a.kind = .send then a.home else some d
  | .scratch d _ => some d
  | .phys d _ _ => some d
  | .beyond => a.home
  | .virt _ _ => if a.noticed then a.home else none

/-- An access that has not yet performed, with a home in `mask` or not yet known (R103). -/
def Chip.pendingAt (c : Chip) (mask id : Nat) : Bool :=
  c.accs.any fun a => a.id == id && !a.settled && (match a.knownHome with | some h => bitOf mask h | none => true)

/-- A node of a die that has not yet retired. -/
def Die.alive (x : Die) (id : Nat) : Bool :=
  x.copy.nodes.any (fun n => n.id == id && n.state != .retired) || x.copy.waiting.any (·.id == id)

/-- The home of a fabric access is die `d`, or may still turn out to be (R99). -/
def Acc.atHome (a : Acc) (d : Nat) : Bool :=
  match a.target with
  | .wall e _ _ => e == d && (a.kind != .send || a.stage == .start) || (a.kind == .send && a.home == some d)
  | .scratch e _ => e == d
  | .phys e _ _ => e == d
  | .beyond => a.kind == .send && a.home == some d
  | .virt _ _ => a.kind != .osend &&
      (a.home == some d || (a.home.isNone && a.stage != .forwarded && a.stage != .performed && a.stage != .done))

/-- The entry is a RECV's, whose row is still to be written (R263). -/
def Entry.isRecv (e : Entry) : Bool := match e.what with | .recv _ _ _ _ => true | _ => false

/-- The row of a RECV that has landed is still to be written (R263). -/
def Die.recvDue (x : Die) (id : Nat) : Bool := (x.main.wpend ++ x.shadow.wpend).any fun w => w.recv == some id

/-- A fabric access, or the write of a RECV, that die `d` has still to see perform at home (R99). -/
def Chip.ownPending (c : Chip) (d id : Nat) : Bool :=
  (c.accs.any fun a => a.id == id && !a.settled && a.atHome d) || ((c.die d).entries.any fun e => e.id == id && e.isRecv) ||
    (c.die d).recvDue id

/-- What a later access or node of a path waits for: accesses, nodes and a program cycle of its stream; an access whose home is
another die waits for a FENCED only (R99, R104). -/
def Die.fenceOver (x : Die) (path : Nat) (sh own : Bool) : List Nat × List Nat × Nat :=
  x.fences.foldl (fun f g => if bitOf g.paths path && g.sh == sh && (own || g.far)
    then (f.1 ++ g.accs, f.2.1 ++ g.nodes, max f.2.2 g.cyc) else f) ([], [], 0)

/-- The things waited for have performed, by the state of the requester's die and stream (R99). -/
def cleared (c : Chip) (d : Nat) (sh : Bool) (accs nodes : List Nat) (cyc : Nat) : Bool :=
  let x := c.die d
  !(accs.any fun i => c.ownPending d i) && !(nodes.any fun i => x.alive i) && cyc ≤ (if sh then x.shadow else x.main).prog

/-- Issue a fabric access: it starts at once, or waits in the engine for a fence. -/
def issueAcc (a : Acc) : M :=
  M.look fun s =>
    let f := (s.chip.die a.die).fenceOver a.path a.sh (a.atHome a.die)
    if cleared s.chip a.die a.sh f.1 f.2.1 f.2.2 then startAcc a
    else M.mod fun c => { c with
      accs := c.accs ++ [{ a with after := f.1, afterNodes := f.2.1, afterCyc := f.2.2 }], nextId := max c.nextId (a.id + 1) }

/-- The rows of RECVs that waited for a fence that has cleared may be written. -/
def releaseRecvs (d : Nat) : M :=
  M.look fun s => M.iff ((s.chip.die d).entries.any fun e => !(e.after.isEmpty && e.afterNodes.isEmpty)) (modDie d fun x =>
    let entries := x.entries.map fun e =>
      if cleared s.chip d e.sh e.after e.afterNodes 0 then { e with after := [], afterNodes := [] } else e
    { x with entries })

/-- Start the accesses of die `d` that waited for a fence that has cleared. -/
def releaseAccs (d : Nat) : M :=
  M.seq (releaseRecvs d) <| M.look fun s =>
    let ready := s.chip.accs.filter fun a => a.die == d && a.stage == .start && (a.afterCyc != 0 || !a.after.isEmpty ||
      !a.afterNodes.isEmpty) && cleared s.chip d a.sh a.after a.afterNodes a.afterCyc
    M.each ready fun a =>
      let b := { a with after := [], afterNodes := [], afterCyc := 0 }
      M.seq (modAcc a.id fun _ => b) (beginAcc b)

/-- Drop the fences that have cleared. -/
def pruneFences (d : Nat) : M :=
  M.look fun s => modDie d fun x => { x with
    fences := x.fences.filter fun g => !cleared s.chip d g.sh g.accs g.nodes g.cyc }

/-- A named request (R40): it takes a landing-buffer entry, or traps LANDING-FULL with 256 outstanding (R41). -/
def namedReq (off : Nat) (w : LandWhat) (k : Nat → M) : M :=
  M.look fun s =>
    if 256 ≤ s.me.entries.length then trap .landingFull
    else
      let id := s.chip.nextId
      M.all [takeEntry id off w, M.mod fun c => { c with nextId := id + 1 }, k id]

/-- A named load over the fabric. -/
def fabricLoad (off : Nat) (w : LandWhat) (f : Acc → Acc) : M :=
  namedReq off w fun id => M.look fun s => issueAcc (f { blankAcc s.chip s.cd .ldWord .beyond with entry := some id })

/-- A fabric access that returns nothing. -/
def fabricStore (f : Acc → Acc) : M := M.look fun s => issueAcc (f (blankAcc s.chip s.cd .stWord .beyond))

/-- The physical scalar a landing writes; 0 discards it. -/
def State.physReg (s : State) (n : Nat) : Nat := if n = 0 then 0 else physS s.cx.rotb n

end Sys2Proof.Machine
end

