-- ==== Sys2Proof/Machine/Scalar.lean ====
section
/-!
DEFINITION. The S-slot arithmetic, compares, predicates, wall words and CSR access (R144-R152, R162-R167, R296).
-/

namespace Sys2Proof.Machine

/-! ### Result functions -/

/-- Quotients and remainders of R145, with division by zero. -/
def divS (a b : Word) : Word := if b = 0 then BitVec.allOnes 64 else a.sdiv b
def divU (a b : Word) : Word := if b = 0 then BitVec.allOnes 64 else a.udiv b
def remS (a b : Word) : Word := if b = 0 then a else a.srem b
def remU (a b : Word) : Word := if b = 0 then a else a.umod b
/-- Bits [127:64] of the product. -/
def mulHS (a b : Word) : Word := BitVec.ofInt 64 (a.toInt * b.toInt / (2 ^ 64 : Nat))
def mulHU (a b : Word) : Word := BitVec.ofNat 64 (a.toNat * b.toNat / 2 ^ 64)
/-- Leading zeros, and set bits (R145). -/
def clz64 (a : Word) : Word := if a = 0 then 64 else BitVec.ofNat 64 (63 - Nat.log2 a.toNat)
def popc64 (a : Word) : Word := BitVec.ofNat 64 (popN a.toNat 64)
/-- The shift amount b[5:0]. -/
def shamt (b : Word) : Nat := b.toNat % 64
/-- ROTM (R150). -/
def rotm (a b c : Word) : Word := BitVec.ofNat 64 ((b.toNat * 2 ^ 64 + a.toNat) / 2 ^ (8 * (c.toNat % 8)))
/-- MOVK (R147). -/
def movk (old : Word) (hw : Nat) (imm : BitVec 16) : Word :=
  BitVec.ofNat 64 (old.toNat - fld old.toNat (16 * hw) 16 * 2 ^ (16 * hw) + imm.toNat * 2 ^ (16 * hw))
/-- Bit field of R148, and its insertion. -/
def extU (a : Word) (pos len : Nat) : Word := BitVec.ofNat 64 (fld a.toNat pos len)
def extS (a : Word) (pos len : Nat) : Word := BitVec.ofInt 64 (sint len (fld a.toNat pos len))
def insF (old a : Word) (pos len : Nat) : Word :=
  BitVec.ofNat 64 (old.toNat - fld old.toNat pos len * 2 ^ pos + fld a.toNat 0 len * 2 ^ pos)

/-- The conditions of R126 and R151. -/
def condHolds (cond : Nat) (a b : Word) : Bool :=
  match cond with
  | 0 => a == b
  | 1 => a != b
  | 2 => a.slt b
  | 3 => b.sle a
  | 4 => a.ult b
  | 5 => b.ule a
  | 6 => b.slt a
  | 7 => a.sle b
  | 8 => b.ult a
  | 9 => a.ule b
  | _ => false

/-- A scalar operation of two registers: S[SD] := f(S[SA], S[SB]) at `lat` (R144, R145). -/
def alu (lat sd sa sb : Nat) (f : Word → Word → Word) (s : State) : Host.Outcome State Fault Refusal :=
  finish s (laterS lat sd (f (s.cx.rs sa) (s.cx.rs sb)))
/-- The same with a value in place of the second register. -/
def aluI (sd sa : Nat) (b : Word) (f : Word → Word → Word) (s : State) : Host.Outcome State Fault Refusal :=
  finish s (laterS 1 sd (f (s.cx.rs sa) b))

/-! ### Register arithmetic (R145) -/

def execAdd (sd sa sb : Nat) (s : State) := alu 1 sd sa sb (· + ·) s
def execSub (sd sa sb : Nat) (s : State) := alu 1 sd sa sb (· - ·) s
def execMul (sd sa sb : Nat) (s : State) := alu 3 sd sa sb (· * ·) s
def execMulhs (sd sa sb : Nat) (s : State) := alu 3 sd sa sb mulHS s
def execMulhu (sd sa sb : Nat) (s : State) := alu 3 sd sa sb mulHU s
def execDivs (sd sa sb : Nat) (s : State) := alu 18 sd sa sb divS s
def execDivu (sd sa sb : Nat) (s : State) := alu 18 sd sa sb divU s
def execRems (sd sa sb : Nat) (s : State) := alu 18 sd sa sb remS s
def execRemu (sd sa sb : Nat) (s : State) := alu 18 sd sa sb remU s
def execAnd (sd sa sb : Nat) (s : State) := alu 1 sd sa sb (· &&& ·) s
def execOr (sd sa sb : Nat) (s : State) := alu 1 sd sa sb (· ||| ·) s
def execXor (sd sa sb : Nat) (s : State) := alu 1 sd sa sb (· ^^^ ·) s
def execAndn (sd sa sb : Nat) (s : State) := alu 1 sd sa sb (fun a b => a &&& ~~~b) s
def execShl (sd sa sb : Nat) (s : State) := alu 1 sd sa sb (fun a b => a <<< shamt b) s
def execShr (sd sa sb : Nat) (s : State) := alu 1 sd sa sb (fun a b => a >>> shamt b) s
def execSar (sd sa sb : Nat) (s : State) := alu 1 sd sa sb (fun a b => a.sshiftRight (shamt b)) s
def execRol (sd sa sb : Nat) (s : State) := alu 1 sd sa sb (fun a b => a.rotateLeft (shamt b)) s
def execMin (sd sa sb : Nat) (s : State) := alu 1 sd sa sb (fun a b => if b.slt a then b else a) s
def execMax (sd sa sb : Nat) (s : State) := alu 1 sd sa sb (fun a b => if a.slt b then b else a) s
def execMinu (sd sa sb : Nat) (s : State) := alu 1 sd sa sb (fun a b => if b.ult a then b else a) s
def execMaxu (sd sa sb : Nat) (s : State) := alu 1 sd sa sb (fun a b => if a.ult b then b else a) s
def execClz (sd sa : Nat) (s : State) := aluI sd sa 0 (fun a _ => clz64 a) s
def execPopc (sd sa : Nat) (s : State) := aluI sd sa 0 (fun a _ => popc64 a) s
/-- SEL (R149). -/
def execSel (sd p sa sb : Nat) (s : State) := alu 1 sd sa sb (fun a b => if s.cx.rp p then a else b) s
/-- ROTM (R150): L = 2. -/
def execRotm (sd sa sb sc : Nat) (s : State) := alu 2 sd sa sb (fun a b => rotm a b (s.cx.rs sc)) s

/-! ### Immediates and fields (R146-R148) -/

def execAddi (sd sa : Nat) (imm : BitVec 20) (s : State) := aluI sd sa (imm.signExtend 64) (· + ·) s
def execAndi (sd sa : Nat) (imm : BitVec 20) (s : State) := aluI sd sa (imm.signExtend 64) (· &&& ·) s
def execOri (sd sa : Nat) (imm : BitVec 20) (s : State) := aluI sd sa (imm.signExtend 64) (· ||| ·) s
def execXori (sd sa : Nat) (imm : BitVec 20) (s : State) := aluI sd sa (imm.signExtend 64) (· ^^^ ·) s
def execShli (sd sa : Nat) (imm : BitVec 20) (s : State) := aluI sd sa (imm.signExtend 64) (fun a b => a <<< shamt b) s
def execShri (sd sa : Nat) (imm : BitVec 20) (s : State) := aluI sd sa (imm.signExtend 64) (fun a b => a >>> shamt b) s
def execSari (sd sa : Nat) (imm : BitVec 20) (s : State) :=
  aluI sd sa (imm.signExtend 64) (fun a b => a.sshiftRight (shamt b)) s
def execMovk (sd hw : Nat) (imm : BitVec 16) (s : State) := aluI sd sd 0 (fun a _ => movk a hw imm) s
def execExt (sd sa pos len : Nat) (s : State) := aluI sd sa 0 (fun a _ => extU a pos len) s
def execExts (sd sa pos len : Nat) (s : State) := aluI sd sa 0 (fun a _ => extS a pos len) s
def execIns (sd sa pos len : Nat) (s : State) := alu 1 sd sd sa (fun old a => insF old a pos len) s

/-! ### Compares and predicates (R151, R152) -/

def execCmp (pd cond sa sb : Nat) (s : State) := finish s (laterP 1 pd (condHolds cond (s.cx.rs sa) (s.cx.rs sb)))
def execCmpi (pd cond sa : Nat) (imm : BitVec 18) (s : State) :=
  finish s (laterP 1 pd (condHolds cond (s.cx.rs sa) (imm.signExtend 64)))
/-- Predicate logic on P[PA] xor NA and P[PB] xor NB. -/
def plogic (pd pa pb : Nat) (na nb : Bool) (f : Bool → Bool → Bool) (s : State) : Host.Outcome State Fault Refusal :=
  finish s (laterP 1 pd (f (s.cx.rp pa ^^ na) (s.cx.rp pb ^^ nb)))
def execPand (pd pa pb : Nat) (na nb : Bool) (s : State) := plogic pd pa pb na nb (fun a b => a && b) s
def execPor (pd pa pb : Nat) (na nb : Bool) (s : State) := plogic pd pa pb na nb (fun a b => a || b) s
def execPxor (pd pa pb : Nat) (na nb : Bool) (s : State) := plogic pd pa pb na nb (fun a b => a ^^ b) s
def execPandn (pd pa pb : Nat) (na nb : Bool) (s : State) := plogic pd pa pb na nb (fun a b => a && !b) s
def execPset (pd : Nat) (val : Bool) (s : State) : Host.Outcome State Fault Refusal := finish s (laterP 1 pd val)
/-- NOP (R162). -/
def execNop (s : State) : Host.Outcome State Fault Refusal := finish s M.skip

/-! ### Wall words and rows (R163-R166) -/

/-- Reserve the read port of a row for the issue cycle, or trap BANK-CONFLICT (R163). -/
def readPort (bank row : Nat) (m : M) : M :=
  M.look fun s => orTrap .bankConflict (portClash s.me s.cx.prog bank row false) (M.seq (reserve s.cx.prog bank row false false) m)
/-- Reserve the write port of a row for issue + 6, or trap BANK-CONFLICT (R163, R175). -/
def writePort (bank row : Nat) (m : M) : M :=
  M.look fun s =>
    let t := s.cx.prog + 6
    orTrap .bankConflict ((portClash s.me t bank row true).orElse fun _ => overtakes s.me t bank row) (M.seq (reserve t bank row true false) m)

/-- Words of a row into registers from `sx` on, at L = 8 (R166). -/
def rowToRegs (sx : Nat) (r : Row) : M := M.each (List.range 8) fun k => laterS 8 (sx + k) (rowWord r k)

/-- LDW and LDROW: `k` takes the row at once; a house load of a compute die's wall is a request (R164). -/
def loadWall (tl c : Nat) (k : Row → M) (kind : AccKind) (w : LandWhat) (word : Nat) : M :=
  M.look fun s =>
    match swall s tl c with
    | .bad code detail names => trapNaming code detail names
    | .fill row => k row
    | .farFill row => fabricLoad 200 w fun a => { a with
        kind := kind, target := .beyond, data := row, word := word, b := BitVec.ofNat 64 (1 + s.chip.cur.slot.num) }
    | .own bank row => readPort bank row (k (s.wallRow s.cd bank row))
    | .scratch row => readPort (row / 256) (row % 256) (k (s.mem.row (memAddr kScratch s.cd (64 * row))))
    | .remote d bank row =>
      fabricLoad 200 w fun a => { a with
        kind := kind, target := .wall d bank row, word := word, b := BitVec.ofNat 64 (1 + s.chip.cur.slot.num) }

/-- STW and STROW (R165, R166); `w` and `x` are the word of a word form. -/
def storeWall (tl c : Nat) (be : BitVec 64) (data : Row) (kind : AccKind) (w : Nat) (x : Word) : M :=
  M.look fun s =>
    match swall s tl c with
    | .bad code detail names => trapNaming code detail names
    | .fill _ => M.skip
    | .farFill _ => M.skip
    | .own bank row => writePort bank row (laterW 6 bank row be data 0)
    | .scratch row => writePort (row / 256) (row % 256) (laterW 6 (row / 256) (row % 256) be data 0)
    | .remote d bank row =>
      fabricStore fun a => { a with kind := kind, target := .wall d bank row, be := be, data := data, word := w, a := x }

def execLdw (sx tl c w : Nat) (s : State) : Host.Outcome State Fault Refusal :=
  finish s (loadWall tl c (fun r => laterS 8 sx (rowWord r w)) .ldWord (.word (s.physReg sx)) w)
def execStw (sx tl c w : Nat) (s : State) : Host.Outcome State Fault Refusal :=
  finish s (storeWall tl c (wordBe w) (wordRow w (s.cx.rs sx)) .stWord w (s.cx.rs sx))
def execLdrow (sx tl c _w : Nat) (s : State) : Host.Outcome State Fault Refusal :=
  finish s (loadWall tl c (rowToRegs sx) .ldRow (.row sx s.cx.rotb) 0)
def execStrow (sx tl c _w : Nat) (s : State) : Host.Outcome State Fault Refusal :=
  finish s (storeWall tl c allBytes (rowOf fun k => s.cx.rs (sx + k)) .stRow 0 0)

/-! ### CSRs (R167, R296) -/

/-- What CSRR reads: the state the bundle found (R27, R167). -/
def State.csr (s : State) (csr : Nat) : Word := readCsr s.chip s.cd csr

/-- CSRR (R167). -/
def execCsrr (sx csr : Nat) (s : State) : Host.Outcome State Fault Refusal :=
  finish s (laterS 1 sx (s.csr csr))
/-- CSRW (R167): it governs later bundles. -/
def execCsrw (sx csr : Nat) (s : State) : Host.Outcome State Fault Refusal :=
  finish s (later 1 (.csr csr (s.cx.rs sx)))
/-- CSRRP (R296): a read of SEM acquires it (R280). -/
def execCsrrp (sx csr : Nat) (s : State) : Host.Outcome State Fault Refusal :=
  finish s (privileged (M.seq (laterS 1 sx (s.csr csr))
    (M.iff (csr == 0x10A) (M.mod fun c => c.acquire (semId s.cd)))))
/-- No earlier than the die's writes of package CSRs still under way (R279). -/
def csrWhen (c : Chip) (d t : Nat) : Nat :=
  c.events.foldl (fun m e => match e.2 with
    | .packageCsrUpdate k _ _ => if k = d then max m e.1 else m
    | _ => m) t

/-- CSRWP (R296): a package CSR holds the die until every copy holds the value (R279). The time is open below 200 cycles
(log entry 5). -/
def execCsrwp (sx csr : Nat) (s : State) : Host.Outcome State Fault Refusal :=
  let v := s.cx.rs sx
  finish s (privileged (
    if packageCsr csr then
      M.all [sched (csrWhen s.chip s.cd (s.chip.now + 1 + Config.extra s.chip.free % 200)) (.packageCsrUpdate s.cd csr v), tickFree,
        modCx fun x => { x with waits := x.waits ++ [.csr csr v] }]
    else later 1 (.csr csr v)))

end Sys2Proof.Machine
end

