-- ==== Sys2Proof/Machine/Control.lean ====
section
/-!
DEFINITION. Control flow (R153-R161, R297): transfers, loops, TRAP and TRET, and what a bundle does to the resumable position
when it has issued.
-/

namespace Sys2Proof.Machine

/-- The innermost open level. -/
def Ctx.inner (x : Ctx) : Option Level := x.loops.head?

/-- A transfer breaks R154: it stands in the last bundle of the innermost body, or leaves it without being exempt. -/
def leavesLoop (x : Ctx) (target : Nat) (exempt : Bool) : Bool :=
  match x.inner with
  | none => false
  | some l => x.pc == l.last || (!exempt && (target < l.first || l.last < target))

/-- Take a transfer to a bundle address with its penalty (R153): CODE-RANGE, then LOOP-EXIT. DEDUCED, log entry 15. -/
def transfer (target : Int) (penalty : Nat) (exempt : Bool) (m : M) : M :=
  M.look fun s =>
    if target < 0 || (s.chip.codeSize s.cd : Int) ≤ target then trap .codeRange
    else if leavesLoop s.cx target.toNat exempt then trap .loopExit
    else M.seq m (modCur fun u => { u with jump := some (target.toNat, penalty) })

/-- BR (R155). -/
def execBr (p : Nat) (t : Bool) (off : BitVec 27) (s : State) : Host.Outcome State Fault Refusal :=
  finish s (if s.cx.rp p = t then transfer ((s.cx.pc : Int) + off.toInt) 2 false M.skip else M.skip)
/-- JMP (R156). -/
def execJmp (addr : Nat) (s : State) : Host.Outcome State Fault Refusal := finish s (transfer addr 2 false M.skip)
/-- JMPR (R156): a signed count from this bundle. -/
def execJmpr (sa : Nat) (s : State) : Host.Outcome State Fault Refusal :=
  finish s (transfer ((s.cx.pc : Int) + (s.cx.rs sa).toInt) 3 false M.skip)
/-- CALL (R157). -/
def execCall (sd : Nat) (off : BitVec 26) (s : State) : Host.Outcome State Fault Refusal :=
  finish s (transfer ((s.cx.pc : Int) + off.toInt) 2 true (laterS 1 sd (BitVec.ofNat 64 (s.cx.pc + 1))))
/-- RET (R157). -/
def execRet (sa : Nat) (s : State) : Host.Outcome State Fault Refusal :=
  finish s (transfer (fld (s.cx.rs sa).toNat 0 32 : Nat) 3 true M.skip)

/-- The checks of a loop body that every loop instruction makes (R153, R154). DEDUCED, log entry 137. DEDUCED, log entry 138. -/
def loopBody (len : Nat) (m : M) : M :=
  M.look fun s =>
    let last := s.cx.pc + len
    if s.chip.codeSize s.cd ≤ last then trap .codeRange
    else match s.cx.inner with
      | some l => if l.last < last then trap .loopExit else m
      | none => m

/-- Open a level of `n` passes and `e` drain passes, and then do `m`; or skip the body (R35, R158). DEDUCED, log entry 139. -/
def openLoop (n e len : Nat) (kind : LoopKind) (m : M) : M :=
  loopBody len (M.look fun s =>
    let last := s.cx.pc + len
    if n = 0 then
      (if s.chip.codeSize s.cd ≤ last + 1 then trap .codeRange else modCur fun u => { u with jump := some (last + 1, 2) })
    else if 6 ≤ s.cx.loops.length then trap .loopDepth
    else M.seq (modCur fun u => { u with level := some ⟨s.cx.pc + 1, last, kind, 0, n + e - 1, e, n⟩ }) m)

/-- LOOP (R158). DEDUCED, log entry 16. -/
def execLoop (sa len : Nat) (s : State) : Host.Outcome State Fault Refusal :=
  finish s (openLoop (fld (s.cx.rs sa).toNat 0 32) 0 len .count M.skip)

/-- Stage predicates p8-p15 cleared and p8 set, at the entry of a software-pipelined loop (R35); `rotb` is the new base. -/
def stageEntry (rotb : BitVec 10) : M :=
  M.seq (M.each (List.range 8) fun k => later 1 (.p (8 + k) false)) (later 1 (.p (physP rotb 8) true))

/-- LOOPSWP (R35, R158). -/
def execLoopswp (sa len e : Nat) (s : State) : Host.Outcome State Fault Refusal :=
  let n := fld (s.cx.rs sa).toNat 0 32
  finish s (openLoop n e len .swp (stageEntry (s.cx.rotb - 1)))

/-- LOOPQ (R158): the depth is checked at issue; the pop is a request named for issue + 2. -/
def execLoopq (q len : Nat) (s : State) : Host.Outcome State Fault Refusal :=
  finish s (loopBody len (
    if 6 ≤ s.cx.loops.length then trap .loopDepth
    else
      let own := match s.chip.cur.bundle with | some b => b.pbv | none => false
      M.seq (modCur fun u => { u with extra := 2 })
        (namedReq 2 (.loopq q (s.cx.pc + 1) (s.cx.pc + len) own) fun _ => M.skip)))

/-- LBRK (R159). -/
def execLbrk (s : State) : Host.Outcome State Fault Refusal :=
  finish s (match s.cx.inner with
    | none => trap .loopDepth
    | some l =>
      if s.chip.codeSize s.cd ≤ l.last + 1 then trap .codeRange
      else modCur fun u => { u with brk := true, jump := some (l.last + 1, 2) })

/-- The barrier of a launch completes 64 cycles after its last party has arrived (R36); an ended party counts as arrived
(R161). -/
def barrierCheck (id : Nat) : M :=
  M.look fun s =>
    match s.chip.launches.find? fun l => l.id == id with
    | none => M.skip
    | some l =>
      if (l.parties.all fun p => l.atBarrier.contains p.1 || l.endedDies.contains p.1) && !l.atBarrier.isEmpty then
        M.seq (M.mod fun c => { c with launches := c.launches.map fun k =>
            if k.id = id then { k with barrierP := s.chip.now } else k })
          (schedIn 64 (.packageBarrierComplete id))
      else M.skip

/-- Change one launch. -/
def modLaunch (id : Nat) (f : Launch → Launch) : M :=
  M.mod fun c => { c with launches := c.launches.map fun l => if l.id = id then f l else l }

/-- A launch whose every party and house program has ended goes on to its completion word (R117, R396). -/
def endCheck (id : Nat) : M :=
  M.look fun s => match s.chip.launches.find? fun l => l.id == id with
    | none => M.skip
    | some l => M.iff ((l.parties ++ l.houses).all fun p => l.endedDies.contains p.1) (schedIn 0 (.completionWord id))

/-- TRAP (R161): 0 ends the party, or makes a fault served by the shadow handler fatal (R343); else USER-TRAP.
DEDUCED, log entry 24. DEDUCED, log entry 26. DEDUCED, log entry 32. DEDUCED, log entry 62. -/
def execTrap (code : Nat) (s : State) : Host.Outcome State Fault Refusal :=
  let d := s.cd
  finish s (
    if code = 0 then
      (if s.me.inShadow then
        M.seq (modMe fun x => { x with trap := x.trap.map fun t => { t with cls := 'T' } }) (schedIn 0 (.holdTimeout d))
      else M.seq (modMe fun x => { x with run := .ended })
        (match s.me.launch with
          | none => M.skip
          | some l => M.all [modLaunch l fun k => { k with endedDies := k.endedDies ++ [d] }, barrierCheck l, endCheck l]))
    else takeTrap d { mkTrap s (.userTrap code) .s0 false 0 0 with cls := 'U' })

/-- TRET (R297): outside the shadow context it traps TRET-STATE; the run ends after its bundle. -/
def execTret (s : State) : Host.Outcome State Fault Refusal :=
  finish s (privileged (if s.me.inShadow then modCur fun u => { u with tret := true } else trap .tretState))

/-! ### The end of a bundle's issue (R24, R26, R30, R35, R154) -/

/-- What resolving the levels that end on the bundle gives: the open levels, and the level that loops back. -/
def resolve (pc : Nat) : List Level → List Level × Option Level
  | [] => ([], none)
  | l :: r =>
    if l.last != pc then (l :: r, none)
    else if l.remain = 0 then resolve pc r
    else
      let k := { l with index := l.index + 1, remain := l.remain - 1, drain := min l.drain (l.remain - 1) }
      (k :: r, some k)

/-- The block a header's descriptor starts, its predicate sampled as the bundle reads it (R26). -/
def newBlock (b : Bundle) (x : Ctx) : Option PBlock :=
  if b.pbv then some ⟨(List.range (b.pblen + 1)).map fun j => bitOf b.pbpat j, x.rp b.pbp⟩ else none

/-- The block in force once the bundle it governs has issued. -/
def PBlock.next (b : PBlock) : Option PBlock := if b.pat.length ≤ 1 then none else some { b with pat := b.pat.drop 1 }

/-- The bundle governed by a block executes (R26). -/
def PBlock.executes (b : PBlock) : Bool := (b.pat.headD true) == b.val

/-- The resumable position after an executed bundle. DEDUCED, log entry 140. DEDUCED, log entry 141. -/
def afterIssue (b : Bundle) : M :=
  M.look fun s =>
    let x := s.cx
    let u := s.chip.cur
    let own := newBlock b x
    let stay := match own with
      | some k => some k
      | none => x.block.bind PBlock.next
    let base := x.prog + 1 + b.stall
    -- a USER-TRAP of the bundle leaves the position at it, for the return from its handler (R343), under the bundle's descriptor (R26)
    let trapped := !s.me.inShadow && (match s.me.trap with | some t => t.cls == 'U' | none => false)
    if trapped then modCx fun y => { y with block := own }
    else match u.jump with
    | some (t, pen) =>
      modCx fun y => { y with
        pc := t, nextIssue := base + pen, block := own, loops := if u.brk then y.loops.drop 1 else y.loops }
    | none =>
      match u.level with
      | some l =>
        modCx fun y => { y with
          pc := y.pc + 1, nextIssue := base, block := stay, loops := l :: y.loops,
          rotb := if l.kind = .swp then y.rotb - 1 else y.rotb }
      | none =>
        let (ls, back) := resolve x.pc x.loops
        match back with
        | none => modCx fun y => { y with pc := y.pc + 1, nextIssue := base + u.extra, block := stay, loops := ls }
        | some k =>
          let rotb := if k.kind = .swp then x.rotb - 1 else x.rotb
          M.all [modCx fun y => { y with pc := k.first, nextIssue := base, block := own, loops := ls, rotb := rotb },
            M.iff (k.kind == .swp) (later 1 (.p (physP rotb 8) (k.index < k.iters))),
            modMe fun y => if y.inShadow || y.comm then y else { y with boundary := some base }]

end Sys2Proof.Machine
end

