-- ==== Sys2Proof/Machine/Address.lean ====
section
/-!
DEFINITION. The A slot (R168-R175) and Anise, the route solver (R85, R86).
-/

namespace Sys2Proof.Machine

/-! ### The route solver (R86) -/

/-- Partners of one side: connections in port order `order`, paired within the groups `key` names. -/
def pairUp (n : Nat) (order : List Nat) (key : Nat → Nat) (keys : Nat) : Array Nat :=
  (order.foldl (fun (st : Array Nat × Array (Option Nat)) i =>
    match st.2.getD (key i) none with
    | none => (st.1, st.2.setIfInBounds (key i) (some i))
    | some j => ((st.1.setIfInBounds i j).setIfInBounds j i, st.2.setIfInBounds (key i) none))
    (Array.replicate n 0, Array.replicate keys none)).1

/-- Follow a chain from a connection of class 0 until it closes. -/
def chain (ip ep : Array Nat) : Nat → Nat → Array (Option Bool) → Array (Option Bool)
  | 0, _, cls => cls
  | n + 1, c, cls =>
    let p := ip.getD c 0
    let cls := cls.setIfInBounds p (some true)
    let q := ep.getD p 0
    if (cls.getD q none).isSome then cls else chain ip ep n q (cls.setIfInBounds q (some false))

/-- The classes `split` gives to `n` connections, from the partners on both sides. -/
def classes (n : Nat) (ip ep : Array Nat) : Array (Option Bool) :=
  (List.range n).foldl (fun cls i =>
    if (cls.getD i none).isSome then cls else chain ip ep n i (cls.setIfInBounds i (some false))) (Array.replicate n none)

/-- The inverse of a permutation. -/
def invPerm (n : Nat) (dest : Array Nat) : Array Nat :=
  (List.range n).foldl (fun a i => a.setIfInBounds (dest.getD i 0) i) (Array.replicate n 0)

/-- split(ingress groups, egress groups) (R86): class 1 of each connection. -/
def splitPerm (n : Nat) (dest : Array Nat) (kin kout : Nat → Nat) (keys : Nat) : Array Bool :=
  let inv := invPerm n dest
  let ip := pairUp n (List.range n) kin keys
  let ep := pairUp n ((List.range n).map fun e => inv.getD e 0) kout keys
  (classes n ip ep).map fun c => c == some true

/-- benes(2^m, perm) (R86): the (stage, switch) pairs set to 1. -/
def benesBits : Nat → Nat → Nat → Nat → Array Nat → List (Nat × Nat)
  | 0, _, _, _, _ => []
  | 1, lo, _, base, dest => if dest.getD 0 0 = 1 then [(lo, base)] else []
  | m + 2, lo, hi, base, dest =>
    let n := 2 ^ (m + 2)
    let inv := invPerm n dest
    let cls := splitPerm n dest (· / 2) (fun i => dest.getD i 0 / 2) n
    let ws := List.range (n / 2)
    let sub (k : Bool) : Array Nat := (ws.map fun w =>
      let i := if cls.getD (2 * w) false == k then 2 * w else 2 * w + 1
      dest.getD i 0 / 2).toArray
    (ws.filterMap fun w => if cls.getD (2 * w) false then some (lo, base + w) else none) ++
      (ws.filterMap fun w => if cls.getD (inv.getD (2 * w) 0) false then some (hi, base + w) else none) ++
      benesBits (m + 1) (lo + 1) (hi - 1) base (sub false) ++
      benesBits (m + 1) (lo + 1) (hi - 1) (base + 2 ^ m) (sub true)

/-- Bits of an octet's setting and of a plane's setting (R80). -/
def octetBits (dest : Array Nat) : Nat := ((benesBits 3 0 4 0 dest).map fun p => 2 ^ (4 * p.1 + p.2)).sum
def planeBits (dest : Array Nat) : Nat := ((benesBits 7 0 12 0 dest).map fun p => 2 ^ (64 * p.1 + p.2)).sum

/-- A destination list with its don't-cares completed (R86). -/
def complete (free : List Nat) : List Nat → List Nat
  | [] => []
  | d :: r => if d = 0xFFFF then free.headD 0 :: complete (free.drop 1) r else d :: complete free r

/-- The destinations name ports at most once each, and none outside 0-1023 but don't-care (R85). -/
def routable (ds : List Nat) : Bool :=
  let named := ds.filter (· != 0xFFFF)
  named.all (· < 1024) && (named.foldl (fun (st : Bool × Array Bool) d =>
    (st.1 && !st.2.getD d false, st.2.setIfInBounds d true)) (true, Array.replicate 1024 false)).1

/-- solve(dest) (R86). -/
def solveRoute (ds : List Nat) : Route :=
  let used := ds.foldl (fun (a : Array Bool) d => a.setIfInBounds d true) (Array.replicate 1024 false)
  let free := (List.range 1024).filter fun e => !used.getD e false
  let dest := (complete free ds).toArray
  let plane := (List.range 3).foldl (fun (b : Array Nat) _ =>
    let cls := splitPerm 1024 dest (fun i => b.getD i 0 * 128 + i / 8) (fun i => b.getD i 0 * 128 + dest.getD i 0 / 8) 1024
    ((List.range 1024).map fun i => 2 * b.getD i 0 + (cls.getD i false).toNat).toArray) (Array.replicate 1024 0)
  let ing (i : Nat) : Nat := octetBits ((List.range 8).map fun p => plane.getD (8 * i + p) 0).toArray
  let mid (j : Nat) : Nat := planeBits ((List.range 1024).foldl (fun (a : Array Nat) s =>
    if plane.getD s 0 = j then a.setIfInBounds (s / 8) (dest.getD s 0 / 8) else a) (Array.replicate 128 0))
  let egr (o : Nat) : Nat := octetBits ((List.range 1024).foldl (fun (a : Array Nat) s =>
    if dest.getD s 0 / 8 = o then a.setIfInBounds (plane.getD s 0) (dest.getD s 0 % 8) else a) (Array.replicate 8 0))
  BitVec.ofNat 11776 (pack (((List.range 128).map fun i => (20, ing i)) ++ ((List.range 8).map fun j => (832, mid j)) ++
    ((List.range 128).map fun o => (20, egr o))))

/-! ### Naming rows (R168-R171) -/

def execAread (tl c : Nat) (s : State) : Host.Outcome State Fault Refusal :=
  finish s (computeOnly (nameReads tl c false M.skip))
def execAwrite (tl c : Nat) (s : State) : Host.Outcome State Fault Refusal :=
  finish s (computeOnly (nameWrites tl c false))
def execArw (tr cr tw cw : Nat) (s : State) : Host.Outcome State Fault Refusal :=
  finish s (computeOnly (nameReads tr cr false (nameWrites tw cw false)))
def execAdiag (tl c : Nat) (wr : Bool) (s : State) : Host.Outcome State Fault Refusal :=
  finish s (computeOnly (if wr then nameWrites tl c true else nameReads tl c true M.skip))

/-! ### The layout table and coordinates (R172, R173) -/

/-- The record S[SX] … S[SX + 11] hold. -/
def Ctx.recordAt (x : Ctx) (sx : Nat) : Rec := BitVec.ofNat 768 (digits 64 (fun k => (x.rs (sx + k)).toNat) 12)

/-- TLW (R172, R88). -/
def execTlw (tl sx : Nat) (s : State) : Host.Outcome State Fault Refusal :=
  let r := s.cx.recordAt sx
  finish s (match recCheck r with
    | none => later 1 (.tl tl r)
    | some b => trapWith .layoutReserved (layoutDetail tl b false (s.cx.rtl tl)) 0)
/-- TLR (R172). -/
def execTlr (tl sx : Nat) (s : State) : Host.Outcome State Fault Refusal :=
  finish s (M.each (List.range 12) fun k => laterS 1 (sx + k) ((s.cx.rtl tl).extractLsb' (64 * k) 64))

/-- A coordinate register with coordinate `d` set, modulo 2^24. -/
def setX (c : Coord) (d : Nat) (x : Int) : Coord :=
  BitVec.ofNat 216 (digits 24 (fun k => intCode 24 (if k = d then x else coordX c k)) 9)

def execCset (c d sx : Nat) (s : State) : Host.Outcome State Fault Refusal :=
  finish s (later 1 (.c c (setX (s.cx.rc c) d (fld (s.cx.rs sx).toNat 0 24 : Nat))))
def execCget (c d sx : Nat) (s : State) : Host.Outcome State Fault Refusal :=
  finish s (laterS 1 sx (BitVec.ofInt 64 (coordX (s.cx.rc c) d)))
def execCinc (c d : Nat) (imm : BitVec 19) (s : State) : Host.Outcome State Fault Refusal :=
  finish s (later 1 (.c c (setX (s.cx.rc c) d (coordX (s.cx.rc c) d + imm.toInt))))
def execCstep (c b : Nat) (s : State) : Host.Outcome State Fault Refusal :=
  finish s (later 1 (.c c (BitVec.ofNat 216
    (digits 24 (fun k => intCode 24 (coordX (s.cx.rc c) k + coordX (s.cx.rc b) k)) 9))))

/-! ### The route store (R174, R175) -/

/-- XSOLVE (R174): one solve at a time; it ends at issue + 1,200. -/
def execXsolve (xw vs pd : Nat) (s : State) : Host.Outcome State Fault Refusal :=
  finish s (computeOnly (if s.me.solver.isSome then trap .solverBusy
    else M.seq (modMe fun x => { x with
        solver := some (s.cx.prog + 1200, xw,
          if pd = 0 then 0 else physP s.cx.rotb pd + (if x.inShadow then 16 else 0), s.cx.rv vs) })
      (laterE 1200 (.xsolveComplete s.cd))))

/-- Write a predicate of a die at once; physical 0 discards it. -/
def Ctx.setP (x : Ctx) (n : Nat) (b : Bool) : Ctx :=
  if n = 0 then x
  else { x with p := BitVec.ofNat 16 (digits 1 (fun k => if k = n then b.toNat else (x.p.getLsbD k).toNat) 16) }

/-- XSOLVE_COMPLETE (R85, R174): the entry and its predicate. -/
def execXsolveComplete (die : Nat) (s : State) : Host.Outcome State Fault Refusal :=
  onDie die s (modDie die fun x =>
    match x.solver with
    | none => x
    | some (_, xw, pd, v) =>
      let ds := (List.range 1024).map fun i => fld v.toNat (32 * i) 16
      let ok := routable ds
      let y := if ok then { x with solver := none, xw := SMap.set 0 x.xw xw (solveRoute ds),
                                   dirty := x.dirty ||| BitVec.ofNat 104 (2 ^ (40 + xw / 64)) } else { x with solver := none }
      if pd < 16 then { y with main := y.main.setP pd ok } else { y with shadow := y.shadow.setP (pd - 16) ok })

/-- The 23 wall rows of an entry at an anchor, checked (R175). -/
def entryRows (tl c : Nat) (k : List (Nat × Nat) → M) : M :=
  M.look fun s =>
    let r := s.cx.rtl tl
    if Rec.rank r == 0 then trapWith .layoutReserved (layoutDetail tl 68 true r) 0
    else if Rec.space r != 0 then trap .wrongSpace
    else match offsetOf r (coordX (s.cx.rc c)) with
      | none => trap .wallRange
      | some o =>
        let n := (tensorRow o (fmtWidth (Rec.fmt r))).1
        let ps := (List.range 23).map fun (i : Nat) => let p := rowPos r (n + (i : Int)) 0; (p.bank, p.row)
        orTrap .wallRange (aBad s.me ps) <| k (ps.map fun p => (p.1, p.2.toNat))

/-- XLOAD (R175). -/
def execXload (xw tl c : Nat) (s : State) : Host.Outcome State Fault Refusal :=
  finish s (computeOnly (entryRows tl c fun rows => M.look fun s =>
    let ks := rows.zip (List.range 23)
    orTrap .bankConflict (ks.findSome? fun p => portClash s.me (s.cx.prog + p.2) p.1.1 p.1.2 false) <|
    M.seq (M.each ks fun p => reserve (s.cx.prog + p.2) p.1.1 p.1.2 false true) (match rows with
        | [] => M.skip
        | r :: rest => later 1 (.xread xw 1 ((s.wallRow s.cd r.1 r.2).setWidth 11776) rest))))

/-- XSAVE (R175). -/
def execXsave (xw tl c : Nat) (s : State) : Host.Outcome State Fault Refusal :=
  finish s (computeOnly (entryRows tl c fun rows => M.look fun s =>
    let ks := rows.zip (List.range 23)
    let e := SMap.get 0 s.me.xw xw
    orTrap .bankConflict (ks.findSome? fun p => (portClash s.me (s.cx.prog + 6 + p.2) p.1.1 p.1.2 true).orElse fun _ =>
      overtakes s.me (s.cx.prog + 6 + p.2) p.1.1 p.1.2) <|
    M.each ks fun p => M.seq (reserve (s.cx.prog + 6 + p.2) p.1.1 p.1.2 true true)
      (laterW (6 + p.2) p.1.1 p.1.2 allBytes (e.extractLsb' (512 * p.2) 512) 0)))

end Sys2Proof.Machine
end

