-- ==== Sys2Proof/Machine/Vector.lean ====
section
/-!
DEFINITION. The V slot (R176-R193): lane arithmetic, conversions, special functions, axis operations, exchange moves, scalars,
random bits and packing. A unit takes the cascade's value from the unit before it, and the last one writes V[VD].
-/

namespace Sys2Proof.Machine

/-- A number from its `w`-bit digits, the first lowest. -/
def ofDigits (w : Nat) : List Nat → Nat
  | [] => 0
  | x :: l => x % 2 ^ w + 2 ^ w * ofDigits w l

/-- A vector and flags from a result per lane. -/
def lanesOf (f : Nat → Nat × Flags) : Vec × Flags :=
  let rs := (List.range 1024).map f
  (BitVec.ofNat 32768 (ofDigits 32 (rs.map (·.1))), orFlags rs)
/-- A vector from lanes given as numbers. -/
def vecN (f : Nat → Nat) : Vec := BitVec.ofNat 32768 (ofDigits 32 ((List.range 1024).map f))
/-- Lane i as a number. -/
def ln (v : Vec) (i : Nat) : Nat := (lane v i).toNat

/-- The first input of a unit: V[V1] in VA, else the cascade's value (R131). -/
def vIn (a : VArgs) (s : State) : Vec := if a.unit = 0 then s.cx.rv a.v1 else s.chip.cur.cas
/-- The second source. -/
def vTwo (a : VArgs) (s : State) : Vec := s.cx.rv a.v2
/-- Latency of the cascade whose last unit this is (R179). -/
def vLat (a : VArgs) : Nat := (if a.loaded then 6 else 0) + 2 * (a.unit + 1)

/-- A unit's result: the last unit writes V[VD] and the cascade's flags, another one passes the value on (R131, R67). -/
def unitOut (a : VArgs) (r : Vec × Flags) : M :=
  M.look fun s =>
    let fl := s.chip.cur.casFlags ||| r.2
    if a.last then M.seq (laterV (vLat a) a.vd r.1) (laterF (vLat a) fl)
    else modCur fun u => { u with cas := r.1, casFlags := fl }

/-- An operation of VA alone that writes V[VD] at `lat`. -/
def aloneOut (lat : Nat) (a : VArgs) (r : Vec × Flags) : M := M.seq (laterV lat a.vd r.1) (laterF lat r.2)

/-- The rounding of a cascade: one that holds VSEL rounds by RNE under SR (R178). -/
def vRc (a : VArgs) (s : State) : RndCtx := if a.hasSel then s.me.fpctl.rcNo else s.me.fpctl.rc
/-- The random lane (R178). DEDUCED, log entry 19. -/
def vRnd (a : VArgs) (s : State) (i : Nat) : Nat := if a.hasSel then 0 else ln (s.cx.rv a.vr) i

/-! ### Lane arithmetic (R180-R182) -/

/-- The lesser or greater of two values, with -0 < +0 (R180). -/
def minNum (a b : Num) : Num :=
  match a, b with
  | .nan s, .nan t => .nan (s || t)
  | .nan s, _ => .nan s
  | _, .nan t => .nan t
  | x, y => if Num.lt x y then x else if Num.lt y x then y else if x.sign then x else y
def maxNum (a b : Num) : Num :=
  match a, b with
  | .nan s, .nan t => .nan (s || t)
  | .nan s, _ => .nan s
  | _, .nan t => .nan t
  | x, y => if Num.lt x y then y else if Num.lt y x then x else if x.sign then y else x

/-- One lane of a two-input operation that rounds: FP32 by `f`, INT32 by `g` modulo 2^32. -/
def lane2 (fp : Fpctl) (c : RndCtx) (ty : Bool) (f : Num → Num → Num) (g : BitVec 32 → BitVec 32 → BitVec 32)
    (x y : BitVec 32) (rnd : Nat) : Nat × Flags :=
  if ty then ((g x y).toNat, 0) else roundTo 1 c (f (inNum fp 1 x.toNat) (inNum fp 1 y.toNat)) rnd

/-- A two-input arithmetic operation. -/
def arith (a : VArgs) (f : RMode → Num → Num → Num) (g : BitVec 32 → BitVec 32 → BitVec 32) (s : State) :
    Host.Outcome State Fault Refusal :=
  let x := vIn a s
  let y := vTwo a s
  let c := vRc a s
  finish s (unitOut a (lanesOf fun i => lane2 s.me.fpctl c a.ty (f c.rm) g (lane x i) (lane y i) (vRnd a s i)))

/-- Signed order of INT32 lanes. -/
def minI (x y : BitVec 32) : BitVec 32 := if y.slt x then y else x
def maxI (x y : BitVec 32) : BitVec 32 := if x.slt y then y else x

def execVadd (a : VArgs) (s : State) := arith a Num.add (· + ·) s
def execVsub (a : VArgs) (s : State) := arith a (fun rm x y => Num.add rm x y.neg) (· - ·) s
def execVmul (a : VArgs) (s : State) := arith a (fun _ => Num.mul) (· * ·) s
def execVmin (a : VArgs) (s : State) := arith a (fun _ => minNum) minI s
def execVmax (a : VArgs) (s : State) := arith a (fun _ => maxNum) maxI s
/-- VFMA: V[V1] · V[V2] + V[V3], one rounding. DEDUCED, log entry 23. -/
def execVfma (a : VArgs) (s : State) : Host.Outcome State Fault Refusal :=
  let x := vIn a s
  let y := vTwo a s
  let z := s.cx.rv a.v3
  let c := vRc a s
  let fp := s.me.fpctl
  finish s (unitOut a (lanesOf fun i =>
    if a.ty then ((lane x i * lane y i + lane z i).toNat, 0)
    else roundTo 1 c (Num.add c.rm (Num.mul (inNum fp 1 (ln x i)) (inNum fp 1 (ln y i))) (inNum fp 1 (ln z i))) (vRnd a s i)))

/-- A one-input bit operation on lanes. -/
def bits1 (a : VArgs) (f : BitVec 32 → BitVec 32) (s : State) : Host.Outcome State Fault Refusal :=
  let x := vIn a s
  finish s (unitOut a (vecOf fun i => f (lane x i), 0))
/-- A two-input bit operation on lanes. -/
def bits2 (a : VArgs) (f : BitVec 32 → BitVec 32 → BitVec 32) (s : State) : Host.Outcome State Fault Refusal :=
  let x := vIn a s
  let y := vTwo a s
  finish s (unitOut a (vecOf fun i => f (lane x i) (lane y i), 0))

/-- VABS and VNEG: bit 31 alone in FP32 (R180). -/
def absLane (ty : Bool) (x : BitVec 32) : BitVec 32 := if ty then (if x.msb then -x else x) else x &&& 0x7FFFFFFF
def negLane (ty : Bool) (x : BitVec 32) : BitVec 32 := if ty then -x else x ^^^ 0x80000000

def execVabs (a : VArgs) (s : State) := bits1 a (absLane a.ty) s
def execVneg (a : VArgs) (s : State) := bits1 a (negLane a.ty) s
def execVand (a : VArgs) (s : State) := bits2 a (· &&& ·) s
def execVor (a : VArgs) (s : State) := bits2 a (· ||| ·) s
def execVxor (a : VArgs) (s : State) := bits2 a (· ^^^ ·) s
def execVnot (a : VArgs) (s : State) := bits1 a (fun x => ~~~x) s
def execVshl (a : VArgs) (s : State) := bits2 a (fun x y => x <<< (y.toNat % 32)) s
def execVshr (a : VArgs) (s : State) := bits2 a (fun x y => x >>> (y.toNat % 32)) s
def execVsar (a : VArgs) (s : State) := bits2 a (fun x y => x.sshiftRight (y.toNat % 32)) s
/-- VMOV: the second source (R182). -/
def execVmov (a : VArgs) (s : State) := bits2 a (fun _ y => y) s

/-- VSEL: the mask is V[VR] (R182). -/
def execVsel (a : VArgs) (s : State) : Host.Outcome State Fault Refusal :=
  let x := vIn a s
  let y := vTwo a s
  let m := s.cx.rv a.vr
  finish s (unitOut a (vecOf fun i => if lane m i != 0 then lane x i else lane y i, 0))

/-- One lane of a compare: all ones or zero; NV for a signalling NaN. -/
def cmpLane (fp : Fpctl) (ty : Bool) (f : Num → Num → Bool) (g : BitVec 32 → BitVec 32 → Bool) (x y : BitVec 32) :
    Nat × Flags :=
  let b (t : Bool) : Nat := if t then 0xFFFFFFFF else 0
  if ty then (b (g x y), 0)
  else
    let p := inNum fp 1 x.toNat
    let q := inNum fp 1 y.toNat
    (b (f p q), flagIf (p == .nan true || q == .nan true) fNV)

/-- A compare (R182). -/
def compare (a : VArgs) (f : Num → Num → Bool) (g : BitVec 32 → BitVec 32 → Bool) (s : State) :
    Host.Outcome State Fault Refusal :=
  let x := vIn a s
  let y := vTwo a s
  finish s (unitOut a (lanesOf fun i => cmpLane s.me.fpctl a.ty f g (lane x i) (lane y i)))

def execVcmpeq (a : VArgs) (s : State) := compare a Num.eq (· == ·) s
def execVcmplt (a : VArgs) (s : State) := compare a Num.lt BitVec.slt s
def execVcmple (a : VArgs) (s : State) := compare a (fun x y => Num.lt x y || Num.eq x y) BitVec.sle s
def execVcmpne (a : VArgs) (s : State) := compare a (fun x y => !Num.eq x y) (· != ·) s

/-! ### Conversions (R183-R185) -/

/-- VCVT (R183). -/
def execVcvt (a : VArgs) (s : State) : Host.Outcome State Fault Refusal :=
  let x := vIn a s
  let src := a.xf 0 4
  let dst := a.xf 4 4
  let c := vRc a s
  finish s (unitOut a (lanesOf fun i => convert s.me.fpctl c src dst (ln x i % 2 ^ fmtWidth src) (vRnd a s i)))

/-- VQUANT into an MX format: block h of row r, 32 lanes from `base` on (R184). -/
def quantBlock (fp : Fpctl) (c : RndCtx) (code : Nat) (x : Nat → Nat) (rnd : Nat → Nat) (base : Nat) : List (Nat × Flags) :=
  let q := mxQuantise code c ((List.range 32).map fun k => inNum fp 1 (x (base + k))) ((List.range 32).map fun k => rnd (base + k))
  q.2.1.map fun e => (q.1 * 256 + e, q.2.2)
/-- VQUANT into OX4: one quad (R184). -/
def quantQuad (fp : Fpctl) (c : RndCtx) (x : Nat → Nat) (rnd : Nat → Nat) (base : Nat) : List (Nat × Flags) :=
  let q := ox4Encode c ((List.range 4).map fun k => inNum fp 1 (x (base + k))) ((List.range 4).map fun k => rnd (base + k))
  (List.range 4).map fun j => (nib q.1 j, q.2)
/-- A vector and flags from a list of lanes. -/
def lanesL (rs : List (Nat × Flags)) : Vec × Flags := (BitVec.ofNat 32768 (ofDigits 32 (rs.map (·.1))), orFlags rs)

/-- VQUANT (R184). -/
def execVquant (a : VArgs) (s : State) : Host.Outcome State Fault Refusal :=
  let v := vIn a s
  let x (i : Nat) : Nat := ln v i
  let code := a.xf 0 4
  let c := vRc a s
  let fp := s.me.fpctl
  finish s (unitOut a (lanesL (
    if code = 9 then ((List.range 256).map fun q => quantQuad fp c x (vRnd a s) (4 * q)).flatten
    else ((List.range 32).map fun b => quantBlock fp c code x (vRnd a s) (32 * b)).flatten)))

/-- VDEQ of one MX lane: the code with its own lane's scale (R185). DEDUCED, log entry 29. -/
def deqLane (fp : Fpctl) (c : RndCtx) (code x rnd : Nat) : Nat × Flags :=
  roundTo 1 c (scaled (fld x 8 8) (inNum fp code (x % 2 ^ fmtWidth code))) rnd
/-- VDEQ of one OX4 quad (R185). -/
def deqQuad (c : RndCtx) (x : Nat → Nat) (base : Nat) : List (Nat × Flags) :=
  let d := ox4Decode (digits 4 (fun j => x (base + j)) 4)
  d.1.map fun n => let r := roundTo 1 c n 0; (r.1, r.2 ||| d.2)

/-- VDEQ (R185). -/
def execVdeq (a : VArgs) (s : State) : Host.Outcome State Fault Refusal :=
  let v := vIn a s
  let code := a.xf 0 4
  let c := vRc a s
  finish s (unitOut a (
    if code = 9 then lanesL ((List.range 256).map fun q => deqQuad c (ln v) (4 * q)).flatten
    else lanesOf fun i => deqLane s.me.fpctl c code (ln v i) (vRnd a s i)))

/-! ### Special functions (R186) -/

/-- A function of each lane, rounded once; SR acts as RNE. -/
def special (f : Num → Num) (a : VArgs) (s : State) : Host.Outcome State Fault Refusal :=
  let x := s.cx.rv a.v1
  finish s (aloneOut 8 a (lanesOf fun i => roundTo 1 s.me.fpctl.rcNo (f (inNum s.me.fpctl 1 (ln x i))) 0))

def execVexp2 (a : VArgs) (s : State) := special exp2Num a s
def execVlog2 (a : VArgs) (s : State) := special log2Num a s
def execVrcp (a : VArgs) (s : State) := special rcpNum a s
def execVrsq (a : VArgs) (s : State) := special rsqNum a s
def execVgelu (a : VArgs) (s : State) := special geluNum a s

/-! ### Axis operations (R187, R188) -/

/-- The amount of a rotate or broadcast, below `n` (R187). -/
def vAmount (a : VArgs) (s : State) (n : Nat) : Nat :=
  (if bitOf a.x.toNat 12 then (s.cx.rs a.ss).toNat else a.x.toNat) % n
/-- Lanes moved: lane i takes lane `f i` of V[V1]. -/
def moveLanes (lat : Nat) (a : VArgs) (f : Nat → Nat) (s : State) : Host.Outcome State Fault Refusal :=
  let x := s.cx.rv a.v1
  finish s (laterV lat a.vd (vecOf fun i => lane x (f i)))

def execVrotr (a : VArgs) (s : State) := moveLanes 3 a (fun i => i / 64 * 64 + (i % 64 + 64 - vAmount a s 64) % 64) s
def execVrotc (a : VArgs) (s : State) := moveLanes 5 a (fun i => (i / 64 + 16 - vAmount a s 16) % 16 * 64 + i % 64) s
def execVbcr (a : VArgs) (s : State) := moveLanes 3 a (fun i => i / 64 * 64 + vAmount a s 64) s
def execVbcc (a : VArgs) (s : State) := moveLanes 5 a (fun i => vAmount a s 16 * 64 + i % 64) s

/-- comb of R188 on lanes. -/
def comb (fp : Fpctl) (ty : Bool) (op : Nat) (x y : Nat) : Nat × Flags :=
  let p := BitVec.ofNat 32 x
  let q := BitVec.ofNat 32 y
  let c := fp.rcNo
  match op with
  | 0 => lane2 fp c ty (Num.add c.rm) (· + ·) p q 0
  | 1 => lane2 fp c ty minNum minI p q 0
  | 2 => lane2 fp c ty maxNum maxI p q 0
  | 3 => ((p &&& q).toNat, 0)
  | 4 => ((p ||| q).toNat, 0)
  | _ => ((p ^^^ q).toNat, 0)

/-- One level of the pairwise tree. -/
def treeLevel (f : Nat → Nat → Nat × Flags) : List Nat → List Nat × Flags
  | x :: y :: l => let r := f x y; let t := treeLevel f l; (r.1 :: t.1, r.2 ||| t.2)
  | l => (l, 0)
/-- The fixed pairwise tree over 2^n values. -/
def treeReduce (f : Nat → Nat → Nat × Flags) : Nat → List Nat → Nat × Flags
  | 0, l => (l.headD 0, 0)
  | n + 1, l => let t := treeLevel f l; let r := treeReduce f n t.1; (r.1, t.2 ||| r.2)

/-- The identity of a combining operation (R188). -/
def ident (ty : Bool) (op : Nat) : Nat :=
  match op with
  | 0 => 0
  | 1 => if ty then 0x7FFFFFFF else 0x7F800000
  | 2 => if ty then 0x80000000 else 0xFF800000
  | 3 => 0xFFFFFFFF
  | _ => 0

/-- The sequential scan after its first value. -/
def scanFrom (f : Nat → Nat → Nat × Flags) : Nat → List Nat → List Nat × Flags
  | _, [] => ([], 0)
  | acc, x :: l => let r := f acc x; let t := scanFrom f r.1 l; (r.1 :: t.1, r.2 ||| t.2)

/-- A scan of a row or column (R188): inclusive or exclusive. DEDUCED, log entry 142. -/
def scanList (fp : Fpctl) (ty : Bool) (op : Nat) (excl : Bool) (xs : List Nat) : List Nat × Flags :=
  match xs with
  | [] => ([], 0)
  | x :: l =>
    let first := if !ty && op < 3 then roundTo 1 ⟨.rne, 8, false⟩ (inNum fp 1 x) 0 else (x, 0)
    let t := scanFrom (comb fp ty op) first.1 l
    let out := first.1 :: t.1
    (if excl then ident ty op :: out.dropLast else out, first.2 ||| t.2)

/-- The values of row r, or of column c. -/
def rowVals (v : Vec) (r : Nat) : List Nat := (List.range 64).map fun c => ln v (64 * r + c)
def colVals (v : Vec) (c : Nat) : List Nat := (List.range 16).map fun r => ln v (64 * r + c)

/-- Results of the 16 rows, or of the 64 columns, as a vector. -/
def fromRows (rs : List (List Nat × Flags)) : Vec × Flags :=
  (BitVec.ofNat 32768 (ofDigits 32 (rs.map (·.1)).flatten), rs.foldl (fun f r => f ||| r.2) 0)
def fromCols (rs : List (List Nat × Flags)) : Vec × Flags :=
  (vecN fun i => ((rs.getD (i % 64) ([], 0)).1).getD (i / 64) 0, rs.foldl (fun f r => f ||| r.2) 0)

def execVredr (a : VArgs) (s : State) : Host.Outcome State Fault Refusal :=
  let v := s.cx.rv a.v1
  finish s (aloneOut 3 a (fromRows ((List.range 16).map fun r =>
    let t := treeReduce (comb s.me.fpctl a.ty (a.xf 0 3)) 6 (rowVals v r)
    (List.replicate 64 t.1, t.2))))
def execVredc (a : VArgs) (s : State) : Host.Outcome State Fault Refusal :=
  let v := s.cx.rv a.v1
  finish s (aloneOut 5 a (fromCols ((List.range 64).map fun c =>
    let t := treeReduce (comb s.me.fpctl a.ty (a.xf 0 3)) 4 (colVals v c)
    (List.replicate 16 t.1, t.2))))
def execVscanr (a : VArgs) (s : State) : Host.Outcome State Fault Refusal :=
  let v := s.cx.rv a.v1
  finish s (aloneOut 3 a (fromRows ((List.range 16).map fun r =>
    scanList s.me.fpctl a.ty (a.xf 0 3) (bitOf a.x.toNat 3) (rowVals v r))))
def execVscanc (a : VArgs) (s : State) : Host.Outcome State Fault Refusal :=
  let v := s.cx.rv a.v1
  finish s (aloneOut 5 a (fromCols ((List.range 64).map fun c =>
    scanList s.me.fpctl a.ty (a.xf 0 3) (bitOf a.x.toNat 3) (colVals v c))))

/-! ### Exchange moves (R189, R190) -/

/-- The register port group g carries (R83, R189); an invalid row gives lanes of 0. -/
def groupReg (rows : List (Nat × Row)) (g : Nat) : Vec :=
  BitVec.ofNat 32768 (digits 512 (fun q => ((portRow rows (512 + 64 * g + q)).getD 0).toNat) 64)

/-- VLD (R189): one register starts the cascade, more are written at issue + 8. -/
def execVld (a : VArgs) (s : State) : Host.Outcome State Fault Refusal :=
  let rows := s.portRows
  let n := a.xf 0 2 + 1
  finish s (if n = 1 then unitOut { a with loaded := true } (groupReg rows 0, 0)
    else M.each (List.range n) fun g => laterV 8 (a.vd + g) (groupReg rows g))

/-- VST (R190). -/
def execVst (a : VArgs) (s : State) : Host.Outcome State Fault Refusal :=
  let n := a.xf 0 2 + 1
  finish s (driveRows 6 1 (((List.range n).map fun g =>
    let v := s.cx.rv (a.v1 + g)
    (List.range 64).map fun q => (512 + 64 * g + q, allBytes, v.extractLsb' (512 * q) 512)).flatten))

/-! ### Scalars, random bits and packing (R191-R193) -/

def execVmovs (a : VArgs) (s : State) : Host.Outcome State Fault Refusal :=
  finish s (laterS 3 a.ss ((lane (s.cx.rv a.v1) (a.xf 0 10)).setWidth 64))
def execVsplat (a : VArgs) (s : State) : Host.Outcome State Fault Refusal :=
  let x := (s.cx.rs a.ss).setWidth 32
  finish s (laterV 2 a.vd (vecOf fun _ => x))
def execViota (a : VArgs) (s : State) : Host.Outcome State Fault Refusal :=
  let x := (s.cx.rs a.ss).setWidth 32
  finish s (laterV 2 a.vd (vecOf fun i => x + BitVec.ofNat 32 i))

/-- Lane i of VRAND (R192). -/
def randLane (seed : Word) (i : Nat) : BitVec 32 :=
  let z := seed + BitVec.ofNat 64 (i + 1) * 0x9E3779B97F4A7C15
  let z := (z ^^^ z >>> 30) * 0xBF58476D1CE4E5B9
  let z := (z ^^^ z >>> 27) * 0x94D049BB133111EB
  (z ^^^ z >>> 31).setWidth 32
def execVrand (a : VArgs) (s : State) : Host.Outcome State Fault Refusal :=
  let seed := s.cx.rs a.ss
  finish s (laterV 4 a.vd (vecOf (randLane seed)))

/-- Element width of VPACK and VUNPK (R193). -/
def vPackW (a : VArgs) : Nat := match a.xf 0 2 with | 0 => 16 | 1 => 8 | _ => 4
/-- Stream bits of part p replaced by the low bits of the lanes of `src` (R193). -/
def packInto (w p : Nat) (old src : Vec) : Vec :=
  let lo := 1024 * w * p
  let new := ofDigits w ((List.range 1024).map fun i => ln src i)
  BitVec.ofNat 32768 (old.toNat - fld old.toNat lo (1024 * w) * 2 ^ lo + new * 2 ^ lo)
/-- One unpacked lane (R193). -/
def unpackLane (w p : Nat) (signed : Bool) (v : Vec) (i : Nat) : BitVec 32 :=
  let e := fld v.toNat (w * (p * 1024 + i)) w
  if signed then BitVec.ofInt 32 (sint w e) else BitVec.ofNat 32 e

def execVpack (a : VArgs) (s : State) : Host.Outcome State Fault Refusal :=
  finish s (laterV 4 a.vd (packInto (vPackW a) (a.xf 3 3) (s.cx.rv a.v2) (s.cx.rv a.v1)))
def execVunpk (a : VArgs) (s : State) : Host.Outcome State Fault Refusal :=
  let v := s.cx.rv a.v1
  finish s (laterV 4 a.vd (vecOf (unpackLane (vPackW a) (a.xf 3 3) (bitOf a.x.toNat 2) v)))

end Sys2Proof.Machine
end

