-- ==== Sys2Proof/Machine/Matrix.lean ====
section
/-!
DEFINITION. The matrix array (R194-R218): products through the summation tree, ranking, the epilogue pipe, fusing modes,
self-tests and follow-on commands.
-/

namespace Sys2Proof.Machine

/-! ### The tile and the sets -/

/-- Cell row `k` of the tile; a row nothing has loaded is undefined since its launch (R274). DESIGN CHOICE, log entry 9. -/
def MTile.row (t : MTile) (k : Nat) : TileRow :=
  match t.gen with
  | none => SMap.get 0 t.rows k
  | some g => SMap.get (Config.freeTile g k) t.rows k
/-- The scales of block `b`, one byte per column; undefined since launch until loaded (R295). -/
def MTile.scale (t : MTile) (b : Nat) : BitVec 2048 :=
  match t.gen with
  | none => SMap.get 0 t.scales b
  | some g => SMap.get ((Config.freeTile g (256 + b)).setWidth 2048) t.scales b

/-- List an entry of a map whose unlisted entries are undefined since launch `gen`, or zero. -/
def genSet {n : Nat} (gen : Option Nat) (m : SMap (BitVec n)) (k : Nat) (x : BitVec n) : SMap (BitVec n) :=
  match gen with
  | none => SMap.set 0 m k x
  | some _ => SMap.ins (SMap.del m k) k x

/-- Row `m` of accumulator set `a`. -/
def Matrix.accRow (x : Matrix) (a m : Nat) : AccRow :=
  match x.accGen with
  | none => SMap.get 0 x.acc (256 * a + m)
  | some g => SMap.get (Config.freeAcc g (256 * a + m)) x.acc (256 * a + m)
/-- Write a row of a set. -/
def Matrix.setAcc (x : Matrix) (a m : Nat) (r : AccRow) : Matrix :=
  { x with acc := genSet x.accGen x.acc (256 * a + m) r, dirty := x.dirty ||| BitVec.ofNat 6 (2 ^ a) }
/-- Clear a set; its mode as readers find it (R205). -/
def Matrix.clearAcc (x : Matrix) (a : Nat) (int : Bool) : Matrix :=
  let keep := x.acc.filter fun p => p.1 / 256 != a
  let y := match x.accGen with
    | none => { x with acc := keep }
    | some _ => { x with acc := (List.range 256).foldl (fun m k => SMap.ins m (256 * a + k) 0) keep }
  { y with modesNow := BitVec.ofNat 4 (digits 1 (fun n => if n = a then int.toNat else (x.modesNow.getLsbD n).toNat) 4),
           dirty := x.dirty ||| BitVec.ofNat 6 (2 ^ a) }

/-- Set `a` is in integer mode: in array order, and as readers find it. -/
def Matrix.intMode (x : Matrix) (a : Nat) : Bool := x.modes.getLsbD a
def Matrix.intNow (x : Matrix) (a : Nat) : Bool := x.modesNow.getLsbD a

/-- The elements of an accumulator row, as numbers of 128 bits. -/
def accElems (r : AccRow) : List Nat := (List.range 256).map fun j => fld r.toNat (128 * j) 128
/-- A row from its elements. -/
def accOf (l : List Nat) : AccRow := BitVec.ofNat 32768 (ofDigits 128 l)

/-- A mode is available (R210): none of its k-blocks holds a fenced sub-array the spare does not replace. -/
def Matrix.avail (x : Matrix) (km : Nat) : Bool :=
  km != 0 && (List.range 16).all fun n => !(bitOf km (n / 4) && x.fenced.getLsbD n && x.spareFor != some n)

/-! ### Product rows (R195, R201-R203, R71, R73) -/

/-- P, the elements of a cell (R194). -/
def cellP (tfmt : Nat) : Nat := 32 / fmtWidth tfmt

/-- A row `a` from the Exchange rows it occupies (R195). -/
def aRowBits (src : Nat → Row) (a : Nat) : Nat := ofDigits 512 ((List.range 16).map fun h => (src (16 * a + h)).toNat)

/-- Numbers and FMT of `n` elements of format `fmt`; OX4 decodes quad by quad (R201). DEDUCED, log entry 34.
DEDUCED, log entry 134. -/
def elemNums (fp : Fpctl) (fmt bits n : Nat) : List Num × Flags :=
  if fmt = 9 then
    let qs := (List.range (n / 4)).map fun q => ox4Decode (fld bits (16 * q) 16)
    ((qs.map (·.1)).flatten, qs.foldl (fun f q => f ||| q.2) 0)
  else
    let w := fmtWidth fmt
    ((List.range n).map fun e => inNum fp fmt (fld bits (w * e) w), 0)

/-- An A operand: its elements from the band's first cell on, and the scale code of each block. -/
structure AOperand where
  elems : Array Num
  scales : Array Nat
  flags : Flags

/-- The band of cells that row `a` of a command feeds: first cell and number of cells (R201-R203); none for an MMAG row
outside every group. -/
def MCap.band (c : MCap) (a : Nat) : Option (Nat × Nat) :=
  match c.op with
  | .mmag =>
    let g := c.offs.length - 1
    let kb := 256 / g
    ((List.range g).find? fun i => c.offs.getD i 0 ≤ (a : Int) && (a : Int) < c.offs.getD (i + 1) 0).map fun i => (i * kb, kb)
  | .mmac => some (0, 256 / cellP c.tile.tfmt)
  | _ => some (0, 256)

/-- Cycles from its start to a command's last effect (R199): the last row it writes, or its start when it writes none. -/
def MCap.lastEffect (c : MCap) : Nat :=
  (((List.range c.n).filter fun a => (c.band a).isSome).getLast?.map (· + 262)).getD 0

/-- The cells of a band that lie in KM, ascending (R210). -/
def MCap.cells (c : MCap) (lo n : Nat) : List Nat := ((List.range n).map (lo + ·)).filter fun k => bitOf c.tile.km (k / 64)

/-- The A operand of row `a` from Exchange rows; FMT comes from the quads that cells in KM use. -/
def MCap.exchangeA (c : MCap) (src : Nat → Row) (a lo n : Nat) : AOperand :=
  let p := cellP c.tile.tfmt
  let bits := aRowBits src a
  let es := (elemNums c.fp c.fa bits (n * p)).1
  let fl := (c.cells lo n).foldl (fun f k =>
    if c.fa = 9 then f ||| (elemNums c.fp 9 (fld bits (32 * (k - lo)) 32) 8).2 else f) 0
  let sc := if c.sca then (List.range 64).map fun b => fld (ln (c.vecs.getD (a / 16) 0) (64 * (a % 16) + b)) 0 8 else []
  ⟨es.toArray, sc.toArray, fl⟩

/-- The A operand of MMAC: a source row through the down-converter (R73, R203). DEDUCED, log entry 35. -/
def MCap.downA (c : MCap) (int : Bool) (row : AccRow) : AOperand :=
  let xs := (accElems row).map fun b => if int then Num.ofInt (sint 128 b) else decodeNum cBin128 b
  let back (b : Nat) : Num := inNum c.fp c.fa b
  if c.fa = 6 || (c.sca && (c.fa == 4 || c.fa == 5)) then
    let qs := (List.range 8).map fun b => mxQuantise c.fa c.fp.rcNo ((xs.drop (32 * b)).take 32) []
    ⟨((qs.map fun q => q.2.1.map back).flatten).toArray, (qs.map (·.1)).toArray, qs.foldl (fun f q => f ||| q.2.2) 0⟩
  else
    let rs := xs.map fun x => roundTo c.fa c.fp.rcNo x 0
    ⟨(rs.map fun r => back r.1).toArray, #[], orFlags rs⟩

/-- The tile's scale code of cell `k`, column `j` (R201). -/
def MCap.tileScale (c : MCap) (k j : Nat) : Nat :=
  if 4 ≤ c.tile.tfmt && c.tile.tfmt ≤ 6 then fld (c.tile.scale (k * cellP c.tile.tfmt / 32)).toNat (8 * j) 8 else 127

/-- part(k) of column `j` with its flags (R71, R201); under a NaN scale a block's elements are default NaNs, whatever their codes (R58). -/
def MCap.part (c : MCap) (x : AOperand) (lo k j : Nat) : Num × Flags :=
  let p := cellP c.tile.tfmt
  let b := elemNums c.fp c.tile.tfmt (fld (c.tile.row k).toNat (32 * j) 32) p
  let sa := x.scales.getD ((k - lo) * p / 32) 127
  let sb := c.tileScale k j
  let masked (scale : Nat) (l : List Num) : List Num := if scale = 255 then l.map fun _ => .nan false else l
  let av := (List.range p).map fun t => x.elems.getD ((k - lo) * p + t) .zero
  let r := partOf ((masked sa av).zip (masked sb b.1))
  if sa = 255 || sb = 255 then (.nan false, r.2 ||| b.2) else (scaled sa (scaled sb r.1), r.2 ||| b.2)

/-- The products of a tile format accumulate as integers (R197). -/
def intTile (tfmt : Nat) : Bool := tfmt == 7 || tfmt == 8

/-- The sum of column `j` over the cells `ks` (R71). -/
def MCap.column (c : MCap) (x : AOperand) (lo : Nat) (ks : List Nat) (j : Nat) : Nat × Flags :=
  let ps := ks.map fun k => c.part x lo k j
  let fl := ps.foldl (fun f p => f ||| p.2) 0
  if intTile c.tile.tfmt then (intCode 128 ((ps.map fun p => p.1.toInt).sum), fl)
  else (ps.foldl (fun s p => treeStep s p.1) 0, fl)

/-- The partial sums of row `a` and the flags of its operands; none for a row outside every group. -/
def MCap.sums (c : MCap) (op : Nat → Nat → AOperand) (a : Nat) : Option (AccRow × Flags) :=
  (c.band a).map fun b =>
    let x := op b.1 b.2
    let cs := (List.range 256).map (c.column x b.1 (c.cells b.1 b.2))
    (accOf (cs.map (·.1)), x.flags ||| orFlags cs)

/-- The partial sums join a row (R71): the new row and ACCSAT. -/
def joinRow (int : Bool) (cur s : AccRow) : AccRow × Flags :=
  let rs := ((accElems cur).zip (accElems s)).map fun p =>
    if int then let r := sat128 (sint 128 p.1 + sint 128 p.2); (intCode 128 r.1, r.2)
    else (treeStep p.1 (decodeNum cBin128 p.2), 0)
  (accOf (rs.map (·.1)), orFlags rs)

/-- The ranks of the scores of A row `a` (R204). -/
def MCap.ranks (c : MCap) (src : Nat → Row) (a : Nat) : AccRow :=
  let w := fmtWidth c.fa
  let bits := aRowBits src a
  let ks := ((List.range c.e).map fun j => keyBits c.fa (fld bits (w * j) w)).toArray
  accOf ((List.range c.e).map fun j =>
    let kj := ks.getD j 0
    ((List.range c.e).filter fun i => kj < ks.getD i 0 || (i < j && ks.getD i 0 == kj)).length)

/-- The first `e` elements of a row replaced. -/
def rankJoin (cur r : AccRow) (e : Nat) : AccRow := accOf ((accElems r).take e ++ (accElems cur).drop e)

/-! ### Checks at issue (R196-R198, R202-R204, R211, R217) -/

/-- A follow-on command is captured and not retired (R217). -/
def Matrix.busy (x : Matrix) : Bool := x.follow.any fun f => f.cap.isSome
/-- A follow-on command not retired writes or reads set `a`. -/
def Matrix.setBusy (x : Matrix) (a : Nat) : Bool :=
  x.follow.any fun f => match f.cap with
    | some c => c.acc == a || (c.op == .mmac && c.asrc == a)
    | none => false

/-- An array command of the M slot is not refused (R217, R211). -/
def arrayOk (m : M) : M :=
  M.look fun s =>
    if s.me.matrix.busy then trap .matrixBusy
    else if !s.me.matrix.avail s.me.matrix.tile.km then trap .shapeLost
    else m

/-- FA pairs with TFMT (R197). -/
def pairOk (tfmt fa : Nat) : Bool :=
  match tfmt with
  | 2 | 3 => fa == 2 || fa == 3
  | 4 | 5 => fa == 4 || fa == 5
  | 6 => fa == 6
  | 7 => fa == 7
  | 8 => fa == 8
  | 9 => fa == 9 || fa == 8
  | _ => false

/-- off[0] to off[G] of MMAG (R202). -/
def groupOffs (v : Vec) (g : Nat) : List Int := (List.range (g + 1)).map fun k => (lane v k).toInt

/-- The offsets a command reads. -/
def State.offsets (s : State) (op : MOp) (a : MArgs) : List Int :=
  if op = .mmag then groupOffs (s.cx.rv a.vs) (2 ^ fld (s.cx.rs a.ss).toNat 8 3) else []

/-- The first check that a product or ranking command fails (R197, R198, R202-R204). -/
def State.captureBad (s : State) (op : MOp) (a : MArgs) : Option Code :=
  let x := s.me.matrix
  let w := (s.cx.rs a.ss).toNat
  let n := a.len + 1
  let tf := x.tile.tfmt
  let row0 := if op = .mmac then fld w 8 8 else fld w 0 8
  let g := 2 ^ fld w 8 3
  let offs := s.offsets op a
  if !(op == .mrank || pairOk tf a.fa) then some .tileFormat
  else if !(if op = .mrank then x.intMode a.acc else x.intMode a.acc == intTile tf) then some .accMode
  else if !(op != .mmac || (x.intMode a.asrc == (a.fa == 7 || a.fa == 8) && (x.intMode a.asrc || a.fa ≤ 6))) then some .accMode
  else if !(row0 + n ≤ 256 && (op != .mmac || fld w 0 8 + n ≤ 256) && (op != .mmag || fld w 8 3 ≤ 4)) then some .matrixRange
  else if !((List.range (offs.length - 1)).all fun i => offs.getD i 0 ≤ offs.getD (i + 1) 0) then some .offsetOrder
  else if !(op != .mmag || (0 ≤ offs.getD 0 0 && offs.getD g 0 ≤ (n : Int))) then some .offsetRange
  else none

/-- What a product or ranking command captures at issue (R66, R198). -/
def State.capture (s : State) (op : MOp) (a : MArgs) : MCap :=
  let x := s.me.matrix
  let w := (s.cx.rs a.ss).toNat
  let n := a.len + 1
  let sca := op != .mrank && a.epb % 2 == 1
  let vs := if op = .mmag then a.vs + 1 else a.vs
  { op, acc := a.acc, asrc := a.asrc, fa := a.fa, row0 := if op = .mmac then fld w 8 8 else fld w 0 8, r0 := fld w 0 8, n, sca,
    e := fld w 8 8 + 1, offs := s.offsets op a,
    vecs := if sca && op != .mmac then (List.range ((n + 15) / 16)).map fun i => s.cx.rv (vs + i) else [],
    fp := s.me.fpctl, tile := x.tile }

/-- Capture a product or ranking command after its checks. -/
def captureCmd (op : MOp) (a : MArgs) (k : MCap → M) : M :=
  M.look fun s => match s.captureBad op a with
    | some c => trap c
    | none => k (s.capture op a)

/-! ### Array order and timing (R196, R199, R214) -/

/-- A self-test's result on die `d` (R213, R215): newly failing sub-arrays are fenced, the spare stands in for the first, and
the results since the last passing test are an uncorrectable error, with a record for each sub-array. DESIGN CHOICE, log
entry 33. DEDUCED, log entry 125. -/
def selfTestResult (d : Nat) (fail : BitVec 17) : M :=
  M.look fun s =>
    let x := (s.chip.die d).matrix
    let new := fail &&& ~~~x.fenced
    if new = 0 then modDie d fun y => { y with matrix := { y.matrix with lastPass := y.matrix.cnt } }
    else
      let first := (List.range 16).find? new.getLsbD
      let all := x.fenced ||| new
      let spare := match x.spareFor with
        | some n => if all.getLsbD 16 then none else some n
        | none => if all.getLsbD 16 then none else first
      let failing := (List.range 17).filter new.getLsbD
      let t (n : Nat) : Trap := { (s.chip.die d).trapAt .uncorrectable 'F' .s0 with
        row3 := BitVec.ofNat 512 (pack [(8, 5), (56, 0), (5, n), (27, 0), (12, x.lastPass.toNat), (4, 0), (12, x.cnt.toNat)]) }
      M.all [modDie d fun y => { y with matrix := { y.matrix with fenced := all, spareFor := spare } },
        M.each failing.dropLast fun n => writeRecord d (t n), fatal d (t (failing.getLastD 16))]

/-- The start cycle of an M-slot array command (R196). -/
def State.arrayStart (s : State) : Nat := max (s.cx.prog + 6) s.me.matrix.free

/-- An M-slot array command of `n` array cycles takes its place in array order (R196, R214). -/
def arrayTake (counted : Bool) (n : Nat) (f : Matrix → Matrix) : M :=
  M.look fun s =>
    let e := s.arrayStart + n
    let test := counted && (s.me.matrix.cnt.toNat + 1) % 4096 == 0
    M.seq (modMe fun x =>
        let m := f x.matrix
        { x with matrix := { m with cnt := if counted then m.cnt + 1 else m.cnt, free := if test then e + 24 else e } })
      (M.iff test (laterE (e + 24 - s.cx.prog) (.selftestCnt s.cd)))

/-- The row an egress port delivers in this bundle; an invalid one is zero (R195, R200). -/
def portOr (rows : List (Nat × Row)) (p : Nat) : Row := (portRow rows p).getD 0

/-- Issue a captured product or ranking command in the M slot (R196, R199). -/
def issueCmd (c : MCap) : M :=
  M.look fun s =>
    let st := s.arrayStart - s.cx.prog
    let ret := st + c.lastEffect
    let ports := s.portRows
    let src (k : Nat) : Row := portOr ports k
    M.all [arrayTake true c.n id,
      M.each (List.range c.n) fun a =>
        match c.op with
        | .mrank => later (st + a + 262) (.accRank c.acc (c.row0 + a) (c.ranks src a) c.e)
        | .mmac => later (st + a) (.macRead c a (s.cx.prog + ret))
        | _ => match c.sums (c.exchangeA src a) a with
          | none => M.skip
          | some r => M.seq (later (st + a + 262) (.accAdd c.acc (c.row0 + a) r.1 (intTile c.tile.tfmt) (s.cx.prog + ret)))
              (laterF ret r.2),
      arriveAt ret]

/-- MMA, MMAG, MMAC, MRANK in the M slot. -/
def product (op : MOp) (a : MArgs) (s : State) : Host.Outcome State Fault Refusal :=
  finish s (arrayOk (captureCmd op a issueCmd))

/-- MMA (R201). -/
def execMma (a : MArgs) (s : State) := product .mma a s
/-- MMAG (R202). -/
def execMmag (a : MArgs) (s : State) := product .mmag a s
/-- MMAC (R203). -/
def execMmac (a : MArgs) (s : State) := product .mmac a s
/-- MRANK (R204). -/
def execMrank (a : MArgs) (s : State) := product .mrank a s

/-- An element slice of the tile (R200). -/
def loadSlice (q fb : Nat) (port : Nat → Row) (t : MTile) : MTile :=
  let rows := (List.range 16).foldl (fun m r =>
    genSet t.gen m (16 * q + r) (BitVec.ofNat 8192 (ofDigits 512 ((List.range 16).map fun h => (port (256 + 16 * r + h)).toNat))))
    t.rows
  let one : BitVec 2048 := BitVec.ofNat 2048 (ofDigits 8 (List.replicate 256 0x7F))
  { t with rows, tfmt := fb,
           scales := if q = 0 then (List.range 64).foldl (fun m b => genSet t.gen m b one) t.scales else t.scales }
/-- The scale slice (R200). -/
def loadScales (port : Nat → Row) (t : MTile) : MTile :=
  { t with scales := (List.range 64).foldl (fun m b =>
      genSet t.gen m b (BitVec.ofNat 2048 (ofDigits 512 ((List.range 4).map fun h => (port (256 + 4 * b + h)).toNat)))) t.scales }

/-- MLOADB (R200). -/
def execMloadb (a : MArgs) (s : State) : Host.Outcome State Fault Refusal :=
  let ports := s.portRows
  let f := if a.fb = 11 then loadScales (portOr ports) else loadSlice a.len a.fb (portOr ports)
  finish s (arrayOk (M.seq (arrayTake true 1 fun m => { m with tile := f m.tile, dirty := m.dirty ||| 16 }) (arriveAt (s.arrayStart - s.cx.prog))))

/-- MZERO (R205). -/
def execMzero (a : MArgs) (s : State) : Host.Outcome State Fault Refusal :=
  let int := a.fa % 2 == 1
  let t := s.arrayStart - s.cx.prog + 262
  finish s (arrayOk (M.all [
    arrayTake true 1 fun m => { m with
      modes := BitVec.ofNat 4 (digits 1 (fun n => if n = a.acc then int.toNat else (m.modes.getLsbD n).toNat) 4) },
    later t (.accClear a.acc int), arriveAt t]))

/-- MSHAPE (R211). -/
def execMshape (a : MArgs) (s : State) : Host.Outcome State Fault Refusal :=
  let km := fld (s.cx.rs a.ss).toNat 0 4
  finish s (need (!s.me.matrix.busy) .matrixBusy <| need (km != 0) .matrixRange <| need (s.me.matrix.avail km) .shapeLost <|
    M.seq (arrayTake true 1 fun m => { m with tile := { m.tile with km } }) (arriveAt (s.arrayStart - s.cx.prog)))

/-- The word MSTAT writes (R212). -/
def Matrix.stat (x : Matrix) : Word :=
  BitVec.ofNat 64 (pack [(16, digits 1 (fun k => (x.avail k).toNat) 16), (4, x.tile.km), (1, x.spareFor.isSome.toNat),
    (4, x.spareFor.getD 0), (4, x.modes.toNat), (4, x.tile.tfmt), (12, x.cnt.toNat)])

/-- MSTAT (R212). -/
def execMstat (a : MArgs) (s : State) : Host.Outcome State Fault Refusal :=
  finish s (M.seq (laterS 1 a.ss s.me.matrix.stat) (arriveAt 1))

/-- MTEST (R213): which sub-arrays fail is the part's (log entry 5). -/
def execMtest (a : MArgs) (s : State) : Host.Outcome State Fault Refusal :=
  let t := s.arrayStart - s.cx.prog + 24
  finish s (arrayOk (M.all [arrayTake false 24 id,
    later t (.mtest (s.physReg a.ss) (Config.selfTestFail s.chip.free)), tickFree, arriveAt t]))

/-- SELFTEST_CNT (R214, R215): the end of an automatic self-test. -/
def execSelftestCnt (die : Nat) (s : State) : Host.Outcome State Fault Refusal :=
  onDie die s (M.seq (selfTestResult die (Config.selfTestFail s.chip.free)) tickFree)

/-- The self-test of an SSEND takes its place in array order (R214). -/
def testNow : M :=
  M.look fun s =>
    let x := s.me.matrix
    if x.busy then
      modMe fun y => { y with matrix := { y.matrix with follow := y.matrix.follow ++ [⟨none, none, [], true, none, [], 0, 0⟩] } }
    else
      let f := max x.free s.cx.prog + 24
      M.seq (modMe fun y => { y with matrix := { y.matrix with free := f } }) (laterE (f - s.cx.prog) (.selftestCnt s.cd))

/-- The bundle holds an M-slot operation or captures a follow-on command, which array order puts ahead of its SSEND's test. -/
def State.besideArray (s : State) : Bool :=
  match s.chip.cur.bundle with
  | some b => b.ops.any fun p => p.1 == .m || p.1 == .c
  | none => false

/-- The self-test at an SSEND: the test comes ahead of an array command only when the SSEND issues before it, so that of the same
bundle goes first (R214). -/
def ssendTest : M := M.look fun s => if s.besideArray then modCur fun u => { u with test := true } else testNow

/-! ### The epilogue pipe (R206-R209) -/

/-- Fields of a parameter block (R206). -/
def epF (b : EpBlock) (lo w : Nat) : Nat := fld b.toNat lo w
/-- OFMT, where 0 means 1. -/
def epOfmt (b : EpBlock) : Nat := if epF b 0 4 = 0 then 1 else epF b 0 4
/-- MX applies (R206). -/
def epMx (b : EpBlock) : Bool := bitOf b.toNat 12 && (epOfmt b == 4 || epOfmt b == 5)

/-- A block is valid (R207). -/
def epValid (b : EpBlock) : Bool :=
  epF b 15 1 == 0 && epF b 27 5 == 0 && epF b 128 1920 == 0 && epF b 0 4 ≤ 10 && epF b 4 3 ≤ 5 &&
    (!bitOf b.toNat 12 || epF b 0 4 == 4 || epF b 0 4 == 5) &&
    (!bitOf b.toNat 11 ||
      (let lo := decodeNum 1 (epF b 64 32); let hi := decodeNum 1 (epF b 96 32)
       !lo.isNan && !hi.isNan && !Num.lt hi lo))

/-- Rows per output row, W (R207). -/
def epRows (b : EpBlock) : Nat :=
  match epOfmt b with
  | 1 | 10 => 16
  | 2 | 3 => 8
  | 4 | 5 | 7 => if epMx b then 5 else 4
  | 6 => 3
  | 8 | 9 => 2
  | _ => 16

/-- The value of an element before its rounding (R208): `bias` and `cs` are the lanes of V[BV]. DEDUCED, log entry 31. -/
def epValue (fp : Fpctl) (b : EpBlock) (rm : RMode) (x : Num) (bias cs : Nat) : Num :=
  let y := if bitOf b.toNat 10 then Num.mul x (inNum fp 1 cs) else x
  let y := if bitOf b.toNat 14 then Num.mul y (inNum fp 1 (epF b 32 32)) else y
  let y := if bitOf b.toNat 9 then Num.add rm y (inNum fp 1 bias) else y
  let y := match epF b 7 2 with
    | 1 => if y.isNan || Num.lt .zero y then y else .zero
    | 2 => geluNum y
    | 3 => siluNum y
    | _ => y
  if bitOf b.toNat 11 && !y.isNan then
    let lo := decodeNum 1 (epF b 64 32)
    let hi := decodeNum 1 (epF b 96 32)
    let z := if Num.lt y lo then lo else y
    if Num.lt hi z then hi else z
  else y

/-- The rows of output row `r` at its ports, and the flags (R208). -/
def epDrive (fp : Fpctl) (b : EpBlock) (int : Bool) (row : AccRow) (bv rv : Vec) (r : Nat) : List Drive × Flags :=
  let rm := (rmodeOf (epF b 4 3)).getD .rne
  let c : RndCtx := ⟨rm, fp.srbits, bitOf b.toNat 13⟩
  let f := epOfmt b
  let w := fmtWidth f
  let ys := ((accElems row).zip (List.range 256)).map fun p =>
    epValue fp b rm (if int then Num.ofInt (sint 128 p.1) else decodeNum cBin128 p.1) (ln bv p.2) (ln bv (256 + p.2))
  let rnd (j : Nat) : Nat := ln rv ((256 * r + j) % 1024)
  let port := 256 + epRows b * r
  let plain (bits : Nat) (n : Nat) : List Drive :=
    (List.range n).map fun i => (port + i, allBytes, BitVec.ofNat 512 (fld bits (512 * i) 512))
  if epMx b || f = 6 then
    let qs := (List.range 8).map fun k =>
      mxQuantise f c ((ys.drop (32 * k)).take 32) ((List.range 32).map fun j => rnd (32 * k + j))
    let n := epRows b - 1
    (plain (ofDigits w ((qs.map fun q => q.2.1).flatten)) n ++
        [(port + n, 0xFF, BitVec.ofNat 512 (ofDigits 8 (qs.map (·.1))))],
      qs.foldl (fun g q => g ||| q.2.2) 0)
  else if f = 9 then
    let qs := (List.range 64).map fun q =>
      ox4Encode c ((ys.drop (4 * q)).take 4) ((List.range 4).map fun j => rnd (4 * q + j))
    (plain (ofDigits 16 (qs.map (·.1))) (epRows b), orFlags qs)
  else
    let rs := (ys.zip (List.range 256)).map fun p => roundTo f c p.1 (rnd p.2)
    (plain (ofDigits w (rs.map (·.1))) (epRows b), orFlags rs)

/-- MEPI and MDRAIN up to the drain (R208). -/
def epilogue (a : MArgs) (k : Nat → M) : M :=
  M.look fun s =>
    let x := s.me.matrix
    let b := SMap.get 0 x.ep a.epb
    let n := a.len + 1
    let row0 := fld (s.cx.rs a.ss).toNat 0 8
    let bv := s.cx.rv (epF b 16 11)
    let rs := (List.range n).map fun r =>
      epDrive s.me.fpctl b (x.intNow a.acc) (x.accRow a.acc (row0 + r)) bv (s.cx.rv a.vs) r
    need (!x.setBusy a.acc) .matrixBusy <| need (row0 + n ≤ 256 && n * epRows b ≤ 256) .matrixRange <|
    M.all [driveRows 18 2 (rs.map (·.1)).flatten, laterF 18 (rs.foldl (fun f r => f ||| r.2) 0), k row0, arriveAt 18]

/-- MEPI (R208). -/
def execMepi (a : MArgs) (s : State) : Host.Outcome State Fault Refusal := finish s (epilogue a fun _ => M.skip)
/-- MDRAIN (R208): it also zeroes the rows in issue + 1. -/
def execMdrain (a : MArgs) (s : State) : Host.Outcome State Fault Refusal :=
  finish s (epilogue a fun row0 => M.each (List.range (a.len + 1)) fun r => later 1 (.accZero a.acc (row0 + r)))
/-- MEPI.LD (R209). -/
def execMepiLd (a : MArgs) (s : State) : Host.Outcome State Fault Refusal :=
  let ports := s.portRows
  let b : EpBlock := BitVec.ofNat 2048 (ofDigits 512 ((List.range 4).map fun k => (portOr ports (256 + k)).toNat))
  finish s (need (epValid b) .epilogueReserved (M.seq (later 7 (.ep a.epb b)) (arriveAt 7)))

/-! ### Follow-on commands (R216, R217), in package cycles -/

/-- Change the matrix array of die `d`. -/
def modMatrix (d : Nat) (f : Matrix → Matrix) : M := modDie d fun x => { x with matrix := f x.matrix }

/-- A captured follow-on command takes its place in array order (R216, R214). -/
def followCapture (node : Nat) (c : MCap) : M :=
  modMe fun x =>
    let m := x.matrix
    let test := (m.cnt.toNat + 1) % 4096 == 0
    let f : Follow := ⟨some node, some c, [], false, none, [], 0, 0⟩
    { x with matrix := { m with
        cnt := m.cnt + 1,
        follow := m.follow ++ [f] ++ (if test then [⟨none, none, [], true, none, [], 0, 0⟩] else []) } }

/-- A pending result writes set `a` (R72). -/
def Land.onSet (l : Land) (a : Nat) : Bool :=
  match l with
  | .accAdd b _ _ _ _ => b == a
  | .accRank b _ _ _ => b == a
  | .accClear b _ => b == a
  | .accZero b _ => b == a
  | .macRead k _ _ => k.acc == a
  | _ => false

/-- Array cycles of an entry of the follow-on queue. -/
def Follow.cycles (f : Follow) : Nat := match f.cap with | some c => c.n | none => 24
/-- The sets a follow-on command writes and reads. -/
def Follow.sets (f : Follow) : List Nat :=
  match f.cap with
  | some c => if c.op = .mmac then [c.acc, c.asrc] else [c.acc]
  | none => []

/-- The first entry not started may start in package cycle `now` (R216). -/
def followReady (x : Die) (now : Nat) : Bool :=
  let m := x.matrix
  let before := m.follow.takeWhile fun f => f.started.isSome
  match m.follow.drop before.length with
  | [] => false
  | f :: _ =>
    f.ready && m.free ≤ x.main.prog &&
      (before.all fun g => (g.started.getD 0) + g.cycles ≤ now) &&
      (f.sets.all fun a => !(x.main.pend.any fun p => p.land.onSet a) && !(before.any fun g => g.sets.contains a))

/-- The sums of row `a` of a follow-on command as its start, or its cycle of the array, finds the operands. -/
def followSum (s : State) (d : Nat) (f : Follow) (c : MCap) (a : Nat) : Option (AccRow × Flags) :=
  let x := (s.chip.die d).matrix
  let src (k : Nat) : Row := match f.rows[k]? with
    | some p => s.mem.row (wallAddr d p.1 p.2)
    | none => 0
  match c.op with
  | .mrank => some (c.ranks src a, 0)
  | .mmac => c.sums (fun _ _ => c.downA (x.intNow c.asrc) (x.accRow c.asrc (c.r0 + a))) a
  | _ => c.sums (c.exchangeA src a) a

/-- Take row `a`'s sums into the entry. DEDUCED, log entry 41. -/
def followTake (s : State) (d : Nat) (f : Follow) (a : Nat) : Follow :=
  match f.cap with
  | none => f
  | some c =>
    let r := followSum s d f c a
    { f with sums := f.sums ++ [r.map (·.1)], flags := f.flags ||| ((r.map (·.2)).getD 0) }

/-- The program cycle that the present package cycle runs, or stands before: a die that has stepped in it is one further. -/
def progNow (x : Die) (turn : Nat) : Nat := if 12 ≤ turn && x.heldFor == 0 then x.main.prog - 1 else x.main.prog

/-- FOLLOW_ON_START (R216): the command, or a queued self-test (R214), takes the array. -/
def execFollowOnStart (die : Nat) (s : State) : Host.Outcome State Fault Refusal :=
  onDie die s (
    let x := s.chip.die die
    let now := s.chip.now
    if !followReady x now then M.skip
    else
      let before := x.matrix.follow.takeWhile fun f => f.started.isSome
      match x.matrix.follow.drop before.length with
      | [] => M.skip
      | f :: rest =>
        match f.cap with
        | none =>
          M.seq (modMatrix die fun m => { m with
              free := max m.free (progNow x s.chip.turn + 24), follow := before ++ [{ f with started := some now }] ++ rest })
            (M.seq (schedIn 24 (.selftestCnt die)) (schedIn 24 (.followOnRetire die)))
        | some c =>
          let g := (List.range (if c.op = .mmac then 1 else c.n)).foldl (fun h a => followTake s die h a) f
          M.seq (modMatrix die fun m => { m with
              free := if c.lastEffect = 0 then max m.free (progNow x s.chip.turn + c.n) else m.free,
              follow := before ++ [{ g with started := some now }] ++ rest })
            (schedIn c.lastEffect (.followOnRetire die)))

/-- Row `a` of a follow-on command joins its set. -/
def followApply (m : Matrix) (f : Follow) (c : MCap) (a : Nat) : Matrix × Flags :=
  match f.sums.getD a none with
  | none => (m, 0)
  | some r =>
    let cur := m.accRow c.acc (c.row0 + a)
    if c.op = .mrank then (m.setAcc c.acc (c.row0 + a) (rankJoin cur r c.e), 0)
    else let j := joinRow (intTile c.tile.tfmt) cur r; (m.setAcc c.acc (c.row0 + a) j.1, j.2)

/-- Rows of a started entry that are due by package cycle `now` apply; `n` bounds the rows (R199). DEDUCED, log entry 42. -/
def followRun (now : Nat) : Nat → Matrix → Follow → Matrix × Follow
  | 0, m, f => (m, f)
  | n + 1, m, f =>
    match f.cap, f.started with
    | some c, some t =>
      if f.applied < c.n && t + f.applied + 262 ≤ now then
        let r := followApply m f c f.applied
        followRun now n r.1 { f with applied := f.applied + 1, flags := f.flags ||| r.2 }
      else (m, f)
    | _, _ => (m, f)

/-- One package cycle of the follow-on commands of die `d`: MMAC rows are read, due rows apply. -/
def followTick (d : Nat) : M :=
  M.look fun s =>
    let x := s.chip.die d
    if x.matrix.follow.isEmpty then M.skip
    else
      let read (f : Follow) : Follow :=
        match f.cap, f.started with
        | some c, some t =>
          if c.op = .mmac && t ≤ s.chip.now && f.sums.length < c.n && f.sums.length = s.chip.now - t
          then followTake s d f f.sums.length else f
        | _, _ => f
      let r := x.matrix.follow.foldl (fun (acc : Matrix × List Follow) f =>
        let q := followRun s.chip.now 256 acc.1 (read f)
        (q.1, acc.2 ++ [q.2])) (x.matrix, [])
      M.seq (modMatrix d fun _ => { r.1 with follow := r.2 })
        (M.iff (followReady x s.chip.now) (schedIn 0 (.followOnStart d)))

/-- With no captured command left, the self-tests queued behind one take their places in array order at once, ahead of the M-slot commands
that may now issue (R214, R217). -/
def testsPull (d : Nat) : M :=
  M.look fun s =>
    let x := s.chip.die d
    let queued (f : Follow) : Bool := f.cap.isNone && f.started.isNone
    let n := (x.matrix.follow.filter queued).length
    let f := max x.matrix.free (progNow x s.chip.turn)
    M.iff (!x.matrix.busy && n != 0) (modDie d fun y => { y with
      matrix := { y.matrix with free := f + 24 * n, follow := y.matrix.follow.filter fun g => !queued g },
      main := { y.main with ptimed := y.main.ptimed ++ (List.range n).map fun k => (f + 24 * (k + 1), .selftestCnt d) } })

/-- FOLLOW_ON_RETIRE (R216): the last row is written; its flags are set and its CCOPYF retires (R67, R234). -/
def execFollowOnRetire (die : Nat) (s : State) : Host.Outcome State Fault Refusal :=
  onDie die s (
    let now := s.chip.now
    let m := (s.chip.die die).matrix
    let last (f : Follow) : Bool := match f.started with
      | some t => t + (match f.cap with | some c => c.lastEffect | none => 24) ≤ now
      | none => false
    match m.follow.find? last with
    | none => M.skip
    | some f =>
      let q := followRun now 256 m f
      let rest := (m.follow.takeWhile fun g => !last g) ++ (m.follow.dropWhile fun g => !last g).drop 1
      M.all [modMatrix die fun _ => { q.1 with follow := rest }, modDie die fun x => x.raise q.2.flags none, testsPull die,
        match f.node with
        | some n => schedIn 0 (.nodeRetire die n)
        | none => M.skip])

/-- A follow-on command whose node faulted is dropped when the node retires (R217). -/
def followDrop (d node : Nat) : M :=
  M.seq (modMatrix d fun m => { m with follow := m.follow.filter fun f => f.node != some node }) (testsPull d)

end Sys2Proof.Machine
end

