-- ==== Sys2Proof/Machine/Sort.lean ====
section
/-!
DEFINITION. Mace, the sort array (R219-R230): the tile, KSTATE, the phases and steps of a sort, and the K slot.
-/

namespace Sys2Proof.Machine

/-! ### KSTATE (R222) -/

/-- KSTATE's fields; LR and LC are log2 of rows and columns less 1. -/
structure KState where
  run : Bool
  op : Nat
  dir : Bool
  kf : Nat
  lr : Nat
  lc : Nat
  phase : Nat
  step : Nat
  topk : Nat
  deriving DecidableEq, Repr

def kUnpack (w : BitVec 64) : KState :=
  let n := w.toNat
  ⟨bitOf n 0, fld n 1 3, bitOf n 4, fld n 5 4, fld n 9 3, fld n 12 3, fld n 15 5, fld n 20 8, fld n 28 9⟩
def kPack (k : KState) : BitVec 64 :=
  BitVec.ofNat 64 (pack [(1, k.run.toNat), (3, k.op), (1, k.dir.toNat), (4, k.kf), (3, k.lr), (3, k.lc), (5, k.phase), (8, k.step),
    (9, k.topk)])
def KState.nr (k : KState) : Nat := 2 ^ (k.lr + 1)
def KState.nc (k : KState) : Nat := 2 ^ (k.lc + 1)

/-! ### Phases and steps (R223) -/

/-- The phases of an operation: row phase or column phase, and its steps. -/
def kPhases (op lr lc : Nat) : List (Bool × Nat) :=
  let nr := 2 ^ (lr + 1)
  let nc := 2 ^ (lc + 1)
  match op with
  | 4 => [(false, nr), (true, nc), (false, nr), (true, nc)]
  | 5 => [(true, nc)]
  | _ => (List.range (2 * (lr + 1) + 1)).map fun i => if i % 2 = 0 then (true, nc) else (false, nr)

def KState.phases (k : KState) : List (Bool × Nat) := kPhases k.op k.lr k.lc

/-- Steps that remain of the operation KSTATE names. -/
def KState.left (k : KState) : Nat := ((k.phases.drop k.phase).map (·.2)).sum - k.step

/-- PHASE and STEP after one step; after the last, RUN, PHASE and STEP are 0 (R228). -/
def KState.next (k : KState) : KState :=
  let len := (k.phases.getD k.phase (true, 0)).2
  if k.step + 1 < len then { k with step := k.step + 1 }
  else if k.phase + 1 < k.phases.length then { k with phase := k.phase + 1, step := 0 }
  else { k with run := false, phase := 0, step := 0 }

def KState.after (k : KState) : Nat → KState
  | 0 => k
  | n + 1 => k.next.after n

/-- An element: key field, payload, origin. -/
abbrev Cell := BitVec 80
def cellKey (c : Cell) : Nat := fld c.toNat 0 32
def cellOrigin (c : Cell) : Nat := fld c.toNat 64 16

/-- before(a, b) (R221). -/
def KState.before (k : KState) (a b : Cell) : Bool :=
  let x := keyBits k.kf (cellKey a)
  let y := keyBits k.kf (cellKey b)
  (if k.dir then y < x else x < y) || (x == y && cellOrigin a < cellOrigin b)

/-- The cell a position holds after a compare of the pair (lo, hi), in before order or its reverse. -/
def KState.pairLow (k : KState) (rev : Bool) (lo hi : Cell) : Cell :=
  if (if rev then k.before lo hi else k.before hi lo) then hi else lo
def KState.pairHigh (k : KState) (rev : Bool) (lo hi : Cell) : Cell :=
  if (if rev then k.before lo hi else k.before hi lo) then lo else hi

/-- The element at (r, c) after step `s` of a phase (R223). -/
def KState.stepped (k : KState) (row : Bool) (s : Nat) (t : Nat → Nat → Cell) (r c : Nat) : Cell :=
  let rev := row && k.op != 5 && r % 2 == 1
  if row then
    if c % 2 = s % 2 && c + 1 < k.nc then k.pairLow rev (t r c) (t r (c + 1))
    else if c % 2 != s % 2 && 1 ≤ c then k.pairHigh rev (t r (c - 1)) (t r c)
    else t r c
  else
    if r % 2 = s % 2 && r + 1 < k.nr then k.pairLow false (t r c) (t (r + 1) c)
    else if r % 2 != s % 2 && 1 ≤ r then k.pairHigh false (t (r - 1) c) (t r c)
    else t r c

/-- The cells with the tile of nr by nc replaced, in key order. -/
def tilePut (cells : SMap Cell) (nr nc : Nat) (t : Nat → Nat → Cell) : SMap Cell :=
  let out := cells.filter fun p => !(p.1 / 256 < nr && p.1 % 256 < nc)
  (((List.range nr).map fun r =>
      ((List.range nc).filterMap fun c => let x := t r c; if x = 0 then none else some (256 * r + c, x)) ++
        out.filter fun p => p.1 / 256 == r).flatten) ++ out.filter fun p => nr ≤ p.1 / 256

/-- One step of the operation in KSTATE (R223). -/
def Mace.step (m : Mace) : Mace :=
  let k := kUnpack m.kstate
  let ph := k.phases.getD k.phase (true, 0)
  let arr := m.cells.foldl (fun (a : Array Cell) p => a.setIfInBounds p.1 p.2) (Array.replicate 65536 0)
  let t (r c : Nat) : Cell := arr.getD (256 * r + c) 0
  { m with cells := tilePut m.cells k.nr k.nc (k.stepped ph.1 k.step t), kstate := kPack k.next, dirty := true }

/-- Write the pairs of KLOAD's ports into the tile (R220, R226). -/
def Mace.load (m : Mace) (b lr lc kf : Nat) (rows : List (Nat × Row)) : Mace :=
  let k := kUnpack m.kstate
  let nc := 2 ^ (lc + 1)
  let n := 2 ^ (lr + 1) * nc
  let cells := rows.foldl (fun (cs : SMap Cell) p =>
    if p.1 < 768 || 896 ≤ p.1 then cs
    else (List.range 8).foldl (fun (ds : SMap Cell) i =>
      let q := b + 8 * (p.1 - 768) + i
      if q < n then SMap.set 0 ds (256 * (q / nc) + q % nc) (BitVec.ofNat 80 (fld p.2.toNat (64 * i) 64 + q * 2 ^ 64)) else ds) cs)
    m.cells
  { m with cells, kstate := kPack { k with lr, lc, kf, run := false, topk := 0 }, dirty := true }

/-- The rows KSTORE drives: port, byte enables, data (R227). -/
def Mace.store (m : Mace) (b : Nat) (rmj dir : Bool) : List Drive :=
  let k := kUnpack m.kstate
  let nc := k.nc
  let n := k.nr * nc
  (List.range 128).filterMap fun t =>
    let ps := (List.range 8).filterMap fun i =>
      let q := b + 8 * t + i
      let r := q / nc
      let c := if rmj && r % 2 == 1 then nc - 1 - q % nc else q % nc
      if q < n && (k.topk = 0 || c < k.topk) then
        let x := SMap.get 0 m.cells (256 * r + c)
        some (i, cellKey x + 2 ^ 32 * (if dir then cellOrigin x else fld x.toNat 32 32))
      else none
    if ps.isEmpty then none
    else some (768 + t, BitVec.ofNat 64 ((ps.map fun p => 255 * 2 ^ (8 * p.1)).sum),
      BitVec.ofNat 512 ((ps.map fun p => p.2 * 2 ^ (64 * p.1)).sum))

/-! ### The end of a cycle (R224, R225) -/

/-- A pending result of the sort array takes effect at the end of its cycle, so a KSTATE.RD of that cycle does not see it. -/
def Land.isMace : Land → Bool
  | .kload .. => true
  | .kstore .. => true
  | .kstate _ => true
  | _ => false

/-- Change the sort array of die `d`. -/
def modMace (d : Nat) (f : Mace → Mace) : M := modDie d fun x => { x with mace := f x.mace }

/-- A stopped operation that KSTATE no longer names in tile cycle `t` is abandoned: its jobs have no steps left (R226). -/
def Mace.abandon (m : Mace) (t : Nat) : Mace := if (kUnpack m.kstate).run then m else
  let jobs := m.jobs.map fun j => if j.next ≤ t then { j with left := 0 } else j
  { m with jobs }

/-- One K-slot effect of its tile cycle; a KSTORE's rows reach the banks seven cycles on (R224). -/
def maceLand (d : Nat) (p : Pend) : M :=
  match p.land with
  | .kload b lr lc kf rows => modMace d fun m => (m.load b lr lc kf rows).abandon p.due
  | .kstate x => modMace d fun m =>
    let k := kUnpack m.kstate
    let l := kUnpack x
    { m with kstate := x, dirty := m.dirty || k.lr != l.lr || k.lc != l.lc }.abandon p.due
  | .kstore b rmj dir xw route names =>
    M.look fun s => M.each ((s.chip.die d).mace.store b rmj dir) fun r =>
      match routeOut xw route r.1 with
      | none => M.skip
      | some bank => M.each (names.filter fun n => n.1 == bank) fun n =>
        modDie d fun x => { x with main := { x.main with
          wpend := x.main.wpend ++ [{ due := p.iss + 8, iss := p.iss, bank, row := n.2, be := r.2.1, data := r.2.2, path := 3 }] } }
  | _ => M.skip

/-- The tile cycle of the present program cycle of die `d`. -/
def maceCycle (d : Nat) : M :=
  M.look fun s =>
    let x := (s.chip.die d).main
    let due := x.pend.filter fun p => p.land.isMace && p.due ≤ x.prog
    if due.isEmpty then M.skip
    else M.seq (modDie d fun y => { y with main := { y.main with pend := y.main.pend.filter fun p => !(p.land.isMace && p.due ≤ x.prog) } })
      (M.each due (maceLand d))

/-- One step of the running operation of die `d`: in its program cycle, or each package cycle once resumed (R225). -/
def maceStep (d : Nat) (held : Bool) : M :=
  modDie d fun x =>
    match x.mace.jobs with
    | [] => x
    | _ =>
      let run (j : SortJob) : Bool := 0 < j.left && (j.resumed || (!held && j.next ≤ x.main.prog))
      match x.mace.jobs.find? run with
      | none => x
      | some j =>
        let m := x.mace.step
        let jobs := m.jobs.map fun k => if k.due = j.due then { k with next := k.next + 1, left := k.left - 1 } else k
        { x with mace := { m with jobs } }

/-- Operations retire in their named program cycle, with their arrivals (R47, R225). -/
def maceRetire (d : Nat) : M :=
  modDie d fun x =>
    let done (j : SortJob) : Bool := j.left == 0 && j.due ≤ x.main.prog
    let y := { x with mace := { x.mace with jobs := x.mace.jobs.filter fun j => !done j } }
    (x.mace.jobs.filter done).foldl (fun z j => match j.arv with | some b => z.arrive b 1 | none => z) y

/-! ### The K slot (R224-R230) -/

/-- KSTATE as it will stand at the first tile cycle of an instruction issued now (R224). -/
def State.kview (s : State) : KState := kUnpack s.me.mace.kview

/-- SORT-BUSY (R224): the first tile cycle is `off` cycles from issue. -/
def tileFree (off : Nat) (m : M) : M := M.look fun s => need (s.me.mace.free ≤ s.cx.prog + off) .sortBusy m

/-- The tile is taken up to `off` cycles from issue, and KSTATE will then stand at `k`. -/
def tileTake (off : Nat) (k : KState) : M :=
  modMe fun x => { x with mace := { x.mace with free := max x.mace.free (x.ctx.prog + off + 1), kview := kPack k } }

/-- The base b of KLOAD and KSTORE is a multiple of 8 below nr·nc. -/
def baseOk (b n : Nat) : Bool := b % 8 == 0 && b < n

/-- KLOAD (R226). -/
def execKload (a : KArgs) (s : State) : Host.Outcome State Fault Refusal :=
  let b := fld (s.cx.rs a.ss).toNat 0 16
  let k := s.kview
  let n := 2 ^ (a.lr + 1) * 2 ^ (a.lc + 1)
  finish s (tileFree 7 (need (baseOk b n) .sortRange <|
    need (b == 0 || (a.lr == k.lr && a.lc == k.lc && a.kf == k.kf)) .sortShape <|
    M.all [tileTake 7 { k with lr := a.lr, lc := a.lc, kf := a.kf, run := false, topk := 0 },
      later 7 (.kload b a.lr a.lc a.kf s.portRows), arriveAt 7]))

/-- KSTORE (R227). -/
def execKstore (a : KArgs) (s : State) : Host.Outcome State Fault Refusal :=
  let b := fld (s.cx.rs a.ss).toNat 0 16
  let k := s.kview
  let xw := match s.chip.cur.bundle with | some u => u.xw | none => 0
  finish s (tileFree 1 (need (baseOk b (k.nr * k.nc)) .sortRange <| need (!(a.rmj && k.topk != 0)) .sortState <|
    M.all [tileTake 1 k, later 1 (.kstore b a.rmj a.dir xw (s.routeEntry xw) s.chip.cur.names), arriveAt 8]))

/-- Run at most `m` steps of operation `op`, or continue a stopped one (R228, R229). DEDUCED, log entries 17 and 149.
DEDUCED, log entry 17. -/
def sortRun (a : KArgs) (op : Nat) (any : Bool) (topk : Nat) (m : Option Nat) : M :=
  M.look fun s =>
    let k := s.kview
    need (a.lr == k.lr && a.lc == k.lc && a.kf == k.kf) .sortShape <|
    need (!k.run || (k.dir == a.dir && (any || k.op == op))) .sortState <|
    let st := if k.run then k else { k with run := true, op, dir := a.dir, phase := 0, step := 0, topk }
    let n := match m with | some x => min x st.left | none => st.left
    M.all [tileTake n (st.after n), later 0 (.kstate (kPack st)),
      if n = 0 then arriveAt 1
      else M.look fun t => modMe fun x => { x with mace := { x.mace with
        jobs := x.mace.jobs ++ [⟨x.ctx.prog + 1, n, x.ctx.prog + n + 1, t.arvOf, false⟩] } }]

/-- KSORT (R228). -/
def execKsort (a : KArgs) (s : State) : Host.Outcome State Fault Refusal := finish s (tileFree 1 (sortRun a 2 false 0 none))
/-- KMERGE (R228). -/
def execKmerge (a : KArgs) (s : State) : Host.Outcome State Fault Refusal := finish s (tileFree 1 (sortRun a 4 false 0 none))
/-- KTOPK (R228): k lies between 1 and nc. -/
def execKtopk (a : KArgs) (s : State) : Host.Outcome State Fault Refusal :=
  let k := fld (s.cx.rs a.ss).toNat 0 9
  finish s (tileFree 1 (need (1 ≤ k && k ≤ 2 ^ (a.lc + 1)) .sortRange (sortRun a 5 false k none)))
/-- KSTEP (R229). DEDUCED, log entry 36. DEDUCED, log entry 149. -/
def execKstep (a : KArgs) (s : State) : Host.Outcome State Fault Refusal :=
  finish s (tileFree 1 (sortRun a 2 true 0 (some (fld (s.cx.rs a.ss).toNat 0 16))))

/-- KSTATE.RD (R230): KSTATE as cycles before this one wrote it. -/
def execKstateRd (a : KArgs) (s : State) : Host.Outcome State Fault Refusal :=
  finish s (M.seq (laterS 1 a.ss s.me.mace.kstate) (arriveAt 1))

/-- A word KSTATE.WR may write (R230). -/
def kstateOk (w : Word) : Bool :=
  let k := kUnpack w
  fld w.toNat 37 27 == 0 && keyFormat k.kf && (k.op == 0 || k.op == 2 || k.op == 4 || k.op == 5) &&
    !(k.run && k.op == 0) &&
    (if k.op = 0 then k.phase == 0 && k.step == 0
     else k.phase < k.phases.length && k.step < (k.phases.getD k.phase (true, 0)).2) &&
    k.topk ≤ k.nc

/-- KSTATE.WR (R230). -/
def execKstateWr (a : KArgs) (s : State) : Host.Outcome State Fault Refusal :=
  let w := s.cx.rs a.ss
  finish s (tileFree 1 (need (kstateOk w) .sortState (M.all [tileTake 1 (kUnpack w), later 1 (.kstate w), arriveAt 1])))

end Sys2Proof.Machine
end

