-- ==== Sys2Proof/Machine/Context.lean ====
section
/-!
DEFINITION. The save area of a party (R142, R276, R294, R295): its groups, the rows of each, and what a row holds.
-/

namespace Sys2Proof.Machine

/-- The groups written since the context was restored or launched (R294): layout 0-7, v 8-39, route store 40-103, acc 104-107, tile
108, epilogue blocks 109, Mace 110. -/
def Die.groups (x : Die) : BitVec 111 :=
  BitVec.ofNat 111 (x.dirty.toNat + 2 ^ 104 * x.matrix.dirty.toNat + 2 ^ 110 * x.mace.dirty.toNat)

/-- Offset in the save area and number of rows of a group (R294, R276). -/
def Mace.rows (x : Mace) : Nat := (10 * (kUnpack x.kstate).nr * (kUnpack x.kstate).nc + 63) / 64
def groupSpan (mace : Mace) (g : Nat) : Nat × Nat :=
  if g < 8 then (0x10000 + 8192 * g, 128)
  else if g < 40 then (0x600000 + 262144 * (g - 8), 4096)
  else if g < 104 then (0xE00000 + 94208 * (g - 40), 1472)
  else if g < 108 then (0x200000 + 0x100000 * (g - 104), 16384)
  else if g = 108 then (0x40000, 4352)
  else if g = 109 then (0x20000, 256)
  else (0x100000, mace.rows)
/-- Offsets of the rows of the groups in a mask, after those of the control state. -/
def saveOffsets (mace : Mace) (mask : BitVec 111) : List Nat :=
  (List.range 1024).map (64 * ·) ++ (((List.range 111).filter mask.getLsbD).map fun g =>
    (List.range (groupSpan mace g).2).map fun k => (groupSpan mace g).1 + 64 * k).flatten

/-- Row `k` of a value that fills whole rows, and the value with that row replaced. -/
def rowPart (v k : Nat) : Row := BitVec.ofNat 512 (fld v (512 * k) 512)
def putPart (v k : Nat) (r : Row) : Nat := v - fld v (512 * k) 512 * 2 ^ (512 * k) + r.toNat * 2 ^ (512 * k)

/-- The cells that row `k` of the saved tile holds bits of (R276): index in row-major order, lowest bit in the row, lowest bit of the cell,
bits. -/
def maceParts (n k : Nat) : List (Nat × Nat × Nat × Nat) :=
  ((List.range 8).map (512 * k / 80 + ·)).filterMap fun i =>
    let lo := max (80 * i) (512 * k)
    let hi := min (80 * i + 80) (512 * k + 512)
    if i < n && lo < hi then some (i, lo - 512 * k, lo - 80 * i, hi - lo) else none
/-- The cell of an index in row-major order. -/
def maceCell (k : KState) (i : Nat) : Nat := 256 * (i / k.nc) + i % k.nc

/-- What is saved in a row of the save area, by its offset; the control state is a party's own (log entry 13). -/
def Saved.rowAt (p : Saved) (off : Nat) : Row :=
  let m := p.matrix
  let k := off / 64
  if off < 0x10000 then 0
  else if off < 0x20000 then rowPart (SMap.get 0 p.ctx.tl ((off - 0x10000) / 128)).toNat (k % 2)
  else if off < 0x40000 then rowPart (SMap.get 0 m.ep ((off - 0x20000) / 256)).toNat (k % 4)
  else if off < 0x80000 then rowPart (m.tile.row ((off - 0x40000) / 1024)).toNat (k % 16)
  else if off < 0x100000 then rowPart (m.tile.scale ((off - 0x80000) / 256)).toNat (k % 4)
  else if off < 0x200000 then
    let s := kUnpack p.mace.kstate
    BitVec.ofNat 512 ((maceParts (s.nr * s.nc) ((off - 0x100000) / 64)).map fun q =>
      2 ^ q.2.1 * fld (SMap.get 0 p.mace.cells (maceCell s q.1)).toNat q.2.2.1 q.2.2.2).sum
  else if off < 0x600000 then rowPart (m.accRow ((off - 0x200000) / 0x100000) ((off - 0x200000) / 4096 % 256)).toNat (k % 64)
  else if off < 0xE00000 then rowPart (SMap.get 0 p.ctx.v ((off - 0x600000) / 4096)).toNat (k % 64)
  else rowPart (SMap.get 0 p.xw ((off - 0xE00000) / 1472)).toNat ((off - 0xE00000) / 64 % 23)

/-- The context with a row of the save area loaded into it (R295). -/
def Saved.putRow (p : Saved) (off : Nat) (r : Row) : Saved :=
  let m := p.matrix
  let k := off / 64
  if off < 0x10000 then p
  else if off < 0x20000 then
    let n := (off - 0x10000) / 128
    { p with ctx := { p.ctx with
        tl := SMap.set 0 p.ctx.tl n (BitVec.ofNat 768 (putPart (SMap.get 0 p.ctx.tl n).toNat (k % 2) r)) } }
  else if off < 0x40000 then
    let n := (off - 0x20000) / 256
    { p with matrix := { m with ep := SMap.set 0 m.ep n (BitVec.ofNat 2048 (putPart (SMap.get 0 m.ep n).toNat (k % 4) r)) } }
  else if off < 0x80000 then
    let n := (off - 0x40000) / 1024
    { p with matrix := { m with tile := { m.tile with
        rows := genSet m.tile.gen m.tile.rows n (BitVec.ofNat 8192 (putPart (m.tile.row n).toNat (k % 16) r)) } } }
  else if off < 0x100000 then
    let n := (off - 0x80000) / 256
    { p with matrix := { m with tile := { m.tile with
        scales := genSet m.tile.gen m.tile.scales n (BitVec.ofNat 2048 (putPart (m.tile.scale n).toNat (k % 4) r)) } } }
  else if off < 0x200000 then
    let s := kUnpack p.mace.kstate
    let cells := (maceParts (s.nr * s.nc) ((off - 0x100000) / 64)).foldl (fun c q =>
      let i := maceCell s q.1
      let v := (SMap.get 0 c i).toNat
      SMap.set 0 c i (BitVec.ofNat 80 (v - fld v q.2.2.1 q.2.2.2 * 2 ^ q.2.2.1 + fld r.toNat q.2.1 q.2.2.2 * 2 ^ q.2.2.1))) p.mace.cells
    { p with mace := { p.mace with cells } }
  else if off < 0x600000 then
    let a := (off - 0x200000) / 0x100000
    let n := (off - 0x200000) / 4096 % 256
    { p with matrix := m.setAcc a n (BitVec.ofNat 32768 (putPart (m.accRow a n).toNat (k % 64) r)) }
  else if off < 0xE00000 then
    let n := (off - 0x600000) / 4096
    { p with ctx := { p.ctx with v := SMap.set 0 p.ctx.v n (BitVec.ofNat 32768 (putPart (SMap.get 0 p.ctx.v n).toNat (k % 64) r)) } }
  else
    let n := (off - 0xE00000) / 1472
    { p with xw := SMap.set 0 p.xw n (BitVec.ofNat 11776 (putPart (SMap.get 0 p.xw n).toNat ((off - 0xE00000) / 64 % 23) r)) }

end Sys2Proof.Machine
end

