-- ==== Sys2Proof/Machine/Copy.lean ====
section
/-!
DEFINITION. The copy engine (R231-R248): the C slot, nodes and their launch, the enumeration of every command, requests and
retirement.
-/

namespace Sys2Proof.Machine

/-! ### Elements of a command -/

/-- Where an element lies: beyond the extent (format, fill bits), at a place with its position and format + 16 GEOM, or in no
row of the wall. -/
inductive Loc where
  | fill (fmt bits : Nat)
  | at (pl : Place) (pos fmt : Nat)
  | bad
  deriving DecidableEq, Repr

/-- Locate element `x` of a record for the copy engine of die `d` (R89, R235, R239, R323). -/
def locElem (c : Chip) (d : Nat) (fmts : SMap Nat) (r : Rec) (x : Nat → Int) : Loc :=
  if Rec.space r = 2 then
    let f := SMap.get 0 fmts (Rec.base r)
    let w := fmtWidth (f % 16)
    match offsetOf r x with
    | none => .fill f (fillElem (f % 16) (Rec.fill r))
    | some o =>
      let b := (((Rec.base r * 8 : Nat) : Int) + o * (w : Int)) % ((2 ^ 67 : Nat) : Int)
      .at (.virt (b.toNat / 512 * 64)) (b.toNat % 512 / w) f
  else
    let f := Rec.fmt r
    match offsetOf r x with
    | none => .fill f (fillElem f (Rec.fill r))
    | some o =>
      let p := wallPos r o
      if 8 ≤ d && Rec.space r == 0 then
        (if 0 ≤ p.row && p.row < 256 then .at (.scratch d (p.bank % 16 * 256 + p.row.toNat)) p.elem f else .bad)
      else if rowIn p.row && (c.die d).bankOk p.bank then
        .at (.wall (if Rec.space r = 0 then d else Rec.die r) p.bank p.row.toNat) p.elem f
      else .bad

/-- Coordinates C + (l), the list filling the first dimensions (R240-R246). -/
def coordAt (c : Coord) (l : List Int) (d : Nat) : Int := coordX c d + l.getD d 0

/-- Index vectors, dimension 0 fastest (R240). -/
def idxVecs : List Nat → List (List Int)
  | [] => [[]]
  | w :: ws => ((idxVecs ws).map fun r => (List.range w).map fun (i : Nat) => (i : Int) :: r).flatten

/-- What an enumerated element receives. -/
inductive Src where
  /-- An element, by coalescing window. -/
  | loc (tag : Nat) (l : Loc)
  | bits (fmt val : Nat)
  | sum (ts : List (Loc × Loc))
  deriving DecidableEq, Repr

/-- A format the copy engine converts (R235). -/
def convFmt (f : Nat) : Bool := (1 ≤ f && f ≤ 5) || f == 7 || f == 8 || f == 10

/-- Elements of format `f` may become elements of format `g`: they are moved, or convert (R235). -/
def fmtMoves (f g : Nat) : Bool := f == g || (convFmt f && convFmt g)

/-- A plan being built, newest first. -/
structure Plan where
  reads : List PlanRead
  writes : List PlanWrite

/-- The read of a row, once per window (R243). -/
def Plan.read (p : Plan) (tag : Nat) (pl : Place) (fmt : Nat) : Nat × Plan :=
  match p.reads.findIdx? fun r => r.tag == tag && r.src == pl with
  | some k => (p.reads.length - 1 - k, p)
  | none => (p.reads.length, { p with reads := ⟨pl, fmt, tag, false, none⟩ :: p.reads })

/-- The reference to a located element. -/
def Plan.ref (p : Plan) (tag : Nat) (l : Loc) : ElemRef × Plan :=
  match l with
  | .fill f b => (.bits f b, p)
  | .at pl pos f => let r := p.read tag pl f; (.mem r.1 f pos, r.2)
  | .bad => (.bits 0 0, p)

/-- One element added to the write of its row. -/
def putElem (pl : Place) (fmt pos : Nat) (e : ElemSrc) : List PlanWrite → List PlanWrite
  | [] => [⟨pl, fmt, [(pos, e)], false, false⟩]
  | w :: ws => if w.dst = pl then { w with elems := (pos, e) :: w.elems } :: ws else w :: putElem pl fmt pos e ws

/-- One enumerated element (R237). -/
def Plan.item (p : Plan) (x : Loc × Src) : Plan :=
  match x.1 with
  | .at pl pos f =>
    let r : ElemSrc × Plan := match x.2 with
      | .loc tag l => let q := p.ref tag l; (.one q.1, q.2)
      | .bits g v => (.one (.bits g v), p)
      | .sum ts =>
        let q := ts.foldl (fun (a : List (ElemRef × ElemRef) × Plan) t =>
          let w := a.2.ref 0 t.1
          let y := w.2.ref 0 t.2
          (a.1 ++ [(w.1, y.1)], y.2)) ([], p)
        (.sum q.1, q.2)
    { r.2 with writes := putElem pl f pos r.1 r.2.writes }
  | _ => p

def Loc.isBad : Loc → Bool
  | .bad => true
  | _ => false
/-- The format of a located element. -/
def Loc.fmt : Loc → Nat
  | .fill f _ => f
  | .at _ _ f => f
  | .bad => 0

/-- The element is one of a page of package memory; of a fill value only a scaled page's format tells it. -/
def Loc.onPage : Loc → Bool
  | .at (.virt _) _ _ => true
  | .fill f _ => 16 ≤ f
  | _ => false
/-- Element `l` may become element `d`: of a scaled page (GEOM, bit 4 of a page's format) only from or to a wall record of its FMT
(R235, R323). -/
def Loc.moves (l d : Loc) : Bool :=
  if 16 ≤ l.fmt || 16 ≤ d.fmt then l.fmt % 16 == d.fmt % 16 && !(l.onPage && d.onPage) else fmtMoves l.fmt d.fmt

/-- A row of the command lies outside the wall (R238). -/
def itemBad (x : Loc × Src) : Bool :=
  x.1.isBad || (match x.2 with
    | .loc _ l => l.isBad
    | .bits _ _ => false
    | .sum ts => ts.any fun t => t.1.isBad || t.2.isBad)

/-- The formats of the element agree, or convert (R235). -/
def itemFmt (x : Loc × Src) : Bool :=
  match x.2 with
  | .loc _ l => l.moves x.1
  | .bits f _ => fmtMoves f x.1.fmt
  | .sum ts => convFmt x.1.fmt && ts.all fun t => convFmt t.1.fmt && convFmt t.2.fmt

/-- The plan of the enumerated elements, or the fault that ends the node. DEDUCED, log entry 37. -/
def buildPlan (items : List (Loc × Src)) : Except Code Plan :=
  if items.any itemBad then .error .wallRange
  else if !items.all fun x => (match x.1 with | .at _ _ _ => itemFmt x | _ => true) then .error .copyFormat
  else
    let p := items.foldl Plan.item ⟨[], []⟩
    .ok ⟨p.reads.reverse, p.writes⟩

/-! ### The enumeration of each command (R240-R246) -/

/-- The records of a node: A, B, XT, XT + 1, XT + 2, then the groups; a record not used is zero. -/
def Node.rec' (n : Node) (k : Nat) : Rec := n.recs.getD k 0
/-- Coordinate registers: CA, CB, CW, XC. -/
def Node.coord (n : Node) (k : Nat) : Coord := n.coords.getD k 0
/-- The larger RANK of the records the command indexes. -/
def Node.rank (n : Node) : Nat := (n.recs.map Rec.rank).foldl Nat.max 0
/-- W[d]. -/
def Node.w (n : Node) (d : Nat) : Nat := if d < n.rank then (coordX (n.coord 2) d).toNat else 1
/-- W[0] to W[k - 1]. -/
def Node.ws (n : Node) (k : Nat) : List Nat := (List.range k).map n.w
/-- The command is empty. -/
def Node.empty (n : Node) : Bool := n.op != .migrate && (n.ws n.rank).contains 0

def Node.experts (n : Node) : Nat := fld n.word0.toNat 30 8 + 1
def Node.choices (n : Node) : Nat := fld n.word0.toNat 38 3 + 1
def Node.epd (n : Node) : Nat := fld n.word0.toNat 41 8 + 1

/-- Where element `l` of record `k` at coordinate register `c` lies. -/
def Node.loc (n : Node) (ch : Chip) (d k c : Nat) (l : List Int) : Loc :=
  locElem ch d n.fmts (n.rec' k) (coordAt (n.coord c) l)

/-- Elements read before the enumeration can be made: indices, or choices and slots. -/
def Node.first (n : Node) (c : Chip) (d : Nat) : List Loc :=
  match n.op with
  | .gather => (List.range (n.w (Rec.rank (n.rec' 1) - 1))).map fun (k : Nat) => n.loc c d 2 3 [(k : Int)]
  | .scatter => (List.range (n.w (Rec.rank (n.rec' 0) - 1))).map fun (k : Nat) => n.loc c d 2 3 [(k : Int)]
  | .dispatch => ((List.range (n.w (Rec.rank (n.rec' 1) - 1))).map fun (t : Nat) =>
      (List.range n.choices).map fun (j : Nat) => n.loc c d 2 3 [(j : Int), (t : Int)]).flatten
  | .combine => ((List.range (n.w (Rec.rank (n.rec' 0) - 1))).map fun (t : Nat) => ((List.range n.choices).map fun (j : Nat) =>
      [n.loc c d 2 3 [(j : Int), (t : Int)], n.loc c d 3 3 [(j : Int), (t : Int)]]).flatten).flatten
  | _ => []

/-- The signed value of an INT32 element among the rows read (R242). -/
def Node.value (n : Node) (l : Loc) : Int :=
  match l with
  | .fill _ b => sint 32 b
  | .at pl pos _ =>
    match n.reads.find? fun r => r.src == pl with
    | some r => sint 32 (fld ((r.data.getD 0).toNat) (32 * pos) 32)
    | none => 0
  | .bad => 0

/-- CCOPY, CCOPYF and CFILL (R240). -/
def Node.copyItems (n : Node) (c : Chip) (d : Nat) : List (Loc × Src) :=
  let val := fld n.word0.toNat 32 32
  (idxVecs (n.ws n.rank)).map fun i =>
    let dst := n.loc c d 0 0 i
    (dst, if n.op = .fill then
        let w := fmtWidth (dst.fmt % 16)
        .bits dst.fmt (if w = 512 then digits 32 (fun _ => val) 16 else val % 2 ^ w)
      else .loc 0 (n.loc c d 1 1 i))

/-- CGATHER with the GMISS flag (R242, R243). -/
def Node.gatherItems (n : Node) (c : Chip) (d : Nat) : List (Loc × Src) × Flags :=
  let tab := n.rec' 1
  let g := Rec.rank tab - 1
  let ext : Int := (Rec.ext tab g : Int)
  let dflt : Option Int :=
    if Rec.defrow tab != 0xFFFF && (Rec.defrow tab : Int) < ext then some (Rec.defrow tab : Int) else none
  let inner := idxVecs (n.ws g)
  let rs := (List.range (n.w g)).map fun (k : Nat) =>
    let l := n.loc c d 2 3 [(k : Int)]
    let v : Option Int := match l with
      | .at _ _ _ => let x := n.value l; if x < 0 || ext ≤ x then dflt else some x
      | _ => dflt
    (inner.map fun i =>
      (n.loc c d 0 0 (i ++ [(k : Int)]),
        match v with
        | some x => Src.loc (k / 64) (n.loc c d 1 1 (i ++ [x]))
        | none =>
          let f := if Rec.space tab = 2 then SMap.get 0 n.fmts (Rec.base tab) else Rec.fmt tab
          .loc 0 (.fill f (fillElem (f % 16) (Rec.fill tab)))),
      flagIf (v.isNone && !inner.isEmpty) fGMISS)
  ((rs.map (·.1)).flatten, rs.foldl (fun f r => f ||| r.2) 0)

/-- CSCATTER (R244). -/
def Node.scatterItems (n : Node) (c : Chip) (d : Nat) : List (Loc × Src) :=
  let tab := n.rec' 0
  let g := Rec.rank tab - 1
  let inner := idxVecs (n.ws g)
  ((List.range (n.w g)).map fun (k : Nat) =>
    let l := n.loc c d 2 3 [(k : Int)]
    match l with
    | .at _ _ _ =>
      let v := n.value l
      if v < 0 || (Rec.ext tab g : Int) ≤ v then []
      else inner.map fun i => (n.loc c d 0 0 (i ++ [v]), Src.loc 0 (n.loc c d 1 1 (i ++ [(k : Int)])))
    | _ => []).flatten

/-- What admission has done so far: counts per expert and per group. -/
structure Admit where
  cntE : Array Nat
  cntG : Array Nat
  items : List (Loc × Src)

/-- Admission of CDISPATCH (R245). -/
def Node.seats (n : Node) (c : Chip) (d : Nat) : Admit :=
  let rs := Rec.rank (n.rec' 1)
  let inner := idxVecs (n.ws (rs - 1))
  let cape := fld n.word1.toNat 0 16
  let capd := fld n.word1.toNat 16 16
  let pairs := ((List.range (n.w (rs - 1))).map fun t => (List.range n.choices).map fun j => (t, j)).flatten
  let r := pairs.foldl (fun (a : Admit) p =>
    let at' := [(p.2 : Int), (p.1 : Int)]
    let e := n.value (n.loc c d 2 3 at')
    let ei := e.toNat
    let g := ei / n.epd
    let slotItem (v : Nat) : Loc × Src := (n.loc c d 3 3 at', .bits 10 v)
    if 0 ≤ e && ei < n.experts && a.cntE.getD ei 0 < cape && a.cntG.getD g 0 < capd then
      let slot := a.cntE.getD ei 0
      let mv := inner.map fun i => (n.loc c d (5 + g) 0 (i ++ [(slot : Int), ((ei % n.epd : Nat) : Int)]),
        Src.loc 0 (n.loc c d 1 1 (i ++ [(p.1 : Int)])))
      ⟨a.cntE.setIfInBounds ei (slot + 1), a.cntG.setIfInBounds g (a.cntG.getD g 0 + 1), mv.reverse ++ slotItem slot :: a.items⟩
    else { a with items := slotItem 0xFFFFFFFF :: a.items })
    ⟨Array.replicate n.experts 0, Array.replicate 256 0, []⟩
  { r with items := r.items.reverse }

/-- CCOMBINE (R246). DEDUCED, log entry 38. -/
def Node.combineItems (n : Node) (c : Chip) (d : Nat) : List (Loc × Src) :=
  let rd := Rec.rank (n.rec' 0)
  let inner := idxVecs (n.ws (rd - 1))
  ((List.range (n.w (rd - 1))).map fun (t : Nat) =>
    let valid := (List.range n.choices).filterMap fun (j : Nat) =>
      let e := n.value (n.loc c d 2 3 [(j : Int), (t : Int)])
      let s := n.value (n.loc c d 3 3 [(j : Int), (t : Int)])
      if 0 ≤ e && e < (n.experts : Int) && 0 ≤ s then some (j, e.toNat, s) else none
    inner.map fun i => (n.loc c d 0 0 (i ++ [(t : Int)]),
      Src.sum (valid.map fun v => (n.loc c d 4 3 [(v.1 : Int), (t : Int)],
        n.loc c d (5 + v.2.1 / n.epd) 1 (i ++ [v.2.2, ((v.2.1 % n.epd : Nat) : Int)]))))).flatten

/-- The elements of the main plan, the flags they set, and the counts to push. -/
def Node.items (n : Node) (c : Chip) (d : Nat) : List (Loc × Src) × Flags × List Nat :=
  match n.op with
  | .gather => let r := n.gatherItems c d; (r.1, r.2, [])
  | .scatter => (n.scatterItems c d, 0, [])
  | .dispatch => let r := n.seats c d; (r.items, 0, if 4 ≤ n.args.aux then r.cntE.toList else [])
  | .combine => (n.combineItems c d, 0, [])
  | .migrate => ([], 0, [])
  | _ => (n.copyItems c d, 0, [])

/-! ### The course of a node (R232, R236-R238) -/

/-- Change a node of die `d`. -/
def modNode (d id : Nat) (f : Node → Node) : M :=
  modDie d fun x =>
    let nodes := x.copy.nodes.map fun n => if n.id = id && n.state != .retired then f n else n
    { x with copy := { x.copy with nodes } }
/-- A node of a die that has not retired. -/
def Die.node (x : Die) (id : Nat) : Option Node := x.copy.nodes.find? fun n => n.id == id && n.state != .retired
/-- A piece about a live node; a stale event names none. -/
def withNode (d id : Nat) (f : Node → M) : M :=
  M.look fun s => match (s.chip.die d).node id with | some n => f n | none => M.skip

/-- A fault ends the node (R238): nothing more of it performs, and it retires. -/
def nodeFail (d id : Nat) (code : Code) : M :=
  withNode d id fun n =>
    if n.fault.isSome then M.skip
    else M.seq (modNode d id fun m => { m with fault := some code }) (schedIn 0 (.nodeRetire d id))
/-- An access of the node meets the fault: its record tells of the address and of a write's data row (R338, R341). -/
def nodeFailAt (d id : Nat) (a : Acc) : M :=
  withNode d id fun n =>
    if n.fault.isSome then M.skip
    else M.seq (modNode d id fun m => { m with va := a.va, bad := a.key, row4 := if a.kind = .nodeWrite then a.data else 0 })
      (nodeFail d id a.code)

/-- The space-2 BASEs whose pages the node must resolve first (R323). -/
def Node.bases (n : Node) : List Nat :=
  ((n.recs.filter fun r => Rec.rank r != 0 && Rec.space r == 2).map Rec.base).eraseDups

/-- An access of the node in its own engine. -/
def nodeAcc (c : Chip) (d : Nat) (n : Node) (k : AccKind) (t : Target) (idx : Nat) : Acc :=
  { blankAcc c d k t with
    path := if n.op = .gather then 5 else 4, node := some (n.id, idx), prog := n.prog, bundle := n.bundle, site := n.site, sh := n.sh }

/-- The formats of the index, slot and weight records are those the command needs (R242, R245, R246). -/
def Node.indexOk (n : Node) : Bool :=
  let f (k fmt : Nat) : Bool :=
    let r := n.rec' k
    Rec.rank r == 0 || Rec.space r != 2 || SMap.get 0 n.fmts (Rec.base r) == fmt
  f 2 10 && f 3 10 && f 4 1

/-- The main plan is made, or the node ends in a fault. -/
def nodeMain (d id : Nat) : M :=
  M.look fun s => withNode d id fun n =>
    let it := n.items s.chip d
    match buildPlan it.1 with
    | .error code => nodeFail d id code
    | .ok p =>
      M.seq (modNode d id fun m => { m with
          stage := 2, reads := p.reads, writes := p.writes, flags := m.flags ||| it.2.1, counts := it.2.2 })
        (M.iff p.writes.isEmpty (schedIn 0 (.nodeRetire d id)))

/-- The indices are all there: go on to the main plan. -/
def nodeIndexed (d id : Nat) : M :=
  withNode d id fun n => M.iff (n.stage == 1 && n.reads.all fun r => r.data.isSome) (nodeMain d id)

/-- The pages of BASE are known: read the indices, if any (R323). -/
def nodeBased (d id : Nat) : M :=
  M.look fun s => withNode d id fun n =>
    if n.stage != 0 || !(n.bases.all fun b => n.fmts.any fun p => p.1 == b) then M.skip
    else if !n.indexOk then nodeFail d id .copyFormat
    else
      let p := (n.first s.chip d).foldl (fun (q : Plan) l => (q.ref 0 l).2) ⟨[], []⟩
      M.seq (modNode d id fun m => { m with stage := 1, reads := p.reads.reverse }) (nodeIndexed d id)

/-- The elements that a command names whatever its indices are (R238). -/
def Node.named (n : Node) (c : Chip) (d : Nat) : List Loc :=
  let all (k r : Nat) (g : Nat) : List Loc := (idxVecs (n.ws g)).map fun i => n.loc c d k r i
  n.first c d ++ (match n.op with
    | .gather => all 0 0 (Rec.rank (n.rec' 1))
    | .scatter => all 1 1 (Rec.rank (n.rec' 0))
    | .dispatch => all 1 1 (Rec.rank (n.rec' 1)) ++ (n.first c d).zipIdx.map fun p =>
        n.loc c d 3 3 [((p.2 % n.choices : Nat) : Int), ((p.2 / n.choices : Nat) : Int)]
    | .combine => all 0 0 (Rec.rank (n.rec' 0)) ++ (n.first c d).zipIdx.map fun p =>
        n.loc c d 4 3 [((p.2 / 2 % n.choices : Nat) : Int), ((p.2 / 2 / n.choices : Nat) : Int)]
    | .migrate => []
    | _ => all 0 0 n.rank ++ if n.op = .fill then [] else all 1 1 n.rank)

/-- Nodes of the window: issued and not retired (R231). -/
def Copy.live (x : Copy) : List Node := x.nodes.filter fun n => n.state != .retired

/-- The far die whose Clove takes a MIGRATE, as far as the caches of its die tell when it launches (R303, R327). -/
def State.cloveOf (s : State) (d : Nat) (n : Node) : Option Nat :=
  let x := s.chip.die d
  let pa (va : Nat) : Option Nat := (tcFind (x.tc (if 8 ≤ d || n.sh then 3 else 0)) va).map fun e => e.pa + va % 2 ^ e.bits
  (n.bases.head?.bind fun b => (pa b).bind (s.pageLeaf d)).bind fun lv =>
    let fmts := n.bases.map fun b => (b, fld lv 36 5)
    match locElem s.chip d fmts (n.rec' 0) (coordAt (n.coord 0) []) with
    | .at (.virt va) _ _ => ((pa va).bind x.regionOf).map fun p => 8 + p.1 % 4
    | _ => none
/-- A MIGRATE node that has launched is on its way to its Clove, or waits there for its page. -/
def Chip.onWay (c : Chip) (d : Nat) (n : Node) : Bool :=
  n.op == .migrate && n.state == .launched && n.fault.isNone &&
    !((c.dies.map (·.migs)).flatten.any fun m => m.die == d && m.node == n.id)
/-- The migrations in flight that a Clove must count: those it has, and the launched nodes that come to it or may come to it (R303).
DEDUCED, log entry 150. -/
def Chip.cloveHeld (c : Chip) (f : Nat) : Nat :=
  (c.die f).migs.length +
    ((List.range 12).map fun d => ((c.die d).copy.live.filter fun n => c.onWay d n && n.clove.getD f == f).length).sum
/-- A MIGRATE for the Clove of `f`, or of a die not known yet, may launch: 64 are not in flight there (R303). -/
def Chip.cloveRoom (c : Chip) (f : Option Nat) : Bool :=
  match f with
  | some f => c.cloveHeld f < 64
  | none => [8, 9, 10, 11].all fun f => c.cloveHeld f < 64

/-- NODE_LAUNCH (R232, R238): the node checks the wall rows it names, resolves its BASE pages and makes its plan; a MIGRATE goes on
towards Clove, or beyond its record's extents names no page (R303). -/
def execNodeLaunch (die node : Nat) (s : State) : Host.Outcome State Fault Refusal :=
  let ask (n : Node) (fn : Nat) : M := M.each n.bases fun b => M.look fun s' =>
    startAcc { nodeAcc s'.chip die n .nodeRead (.virt b 0) 0 with fn }
  onDie die s (withNode die node fun n =>
    if n.state != .waiting then M.skip
    else
      let clove := if n.op = .migrate then s.cloveOf die n else none
      let launched := n.op != .migrate || s.chip.cloveRoom clove
      M.seq (modNode die node fun m => { m with state := if launched then .launched else .waiting, launchAt := s.chip.now, clove }) (
        if n.op = .migrate then
          if (offsetOf (n.rec' 0) (coordX (n.coord 0))).isNone then
            M.seq (modNode die node fun m => { m with state := .launched }) (schedIn 0 (.nodeRetire die node))
          else ask n 3
        else if n.empty then schedIn 0 (.nodeRetire die node)
        else if (n.named s.chip die).any Loc.isBad then nodeFail die node .wallRange
        else M.seq (ask n 1) (nodeBased die node)))

/-! ### Rows formed (R232, R235) -/

/-- Bits of a reference and their format. -/
def Node.refBits (n : Node) (r : ElemRef) : Nat × Nat :=
  match r with
  | .mem k f pos =>
    let w := fmtWidth (f % 16)
    (fld ((((n.reads[k]?).bind (·.data)).getD 0).toNat) (w * pos) w, f)
  | .bits f v => (v, f)

/-- The code of an element and its flags (R235, R246). DEDUCED, log entry 146. -/
def Node.elem (n : Node) (fmt : Nat) (e : ElemSrc) : Nat × Flags :=
  match e with
  | .one r =>
    let b := n.refBits r
    if b.2 % 16 = fmt % 16 then (b.1, 0) else convert n.fp n.fp.rcNo (b.2 % 16) (fmt % 16) b.1 0
  | .sum ts =>
    let val (r : ElemRef) : Num := let b := n.refBits r; decodeNum (b.2 % 16) b.1
    let p := partOf (ts.map fun t => (val t.1, val t.2))
    let r := roundTo (fmt % 16) n.fp.rcNo (match Num.add .rne .zero p.1 with | .nan _ => .nan false | x => x) 0
    (r.1, r.2 ||| p.2)

/-- The element at each position of a row write: the last enumerated stands (R237). -/
def PlanWrite.slots (w : PlanWrite) : Array (Option ElemSrc) :=
  w.elems.foldr (fun p a => a.setIfInBounds p.1 (some p.2)) (Array.replicate (512 / fmtWidth (w.fmt % 16)) none)

/-- The data of a row write, the nibbles it writes, and the flags. -/
def Node.row (n : Node) (w : PlanWrite) : Row × BitVec 128 × Flags :=
  let wd := fmtWidth (w.fmt % 16)
  let rs := w.slots.toList.map fun o => match o with
    | some e => let x := n.elem w.fmt e; (x.1, true, x.2)
    | none => (0, false, 0)
  (BitVec.ofNat 512 (ofDigits wd (rs.map (·.1))),
    BitVec.ofNat 128 (ofDigits (wd / 4) (rs.map fun r => if r.2.1 then 2 ^ (wd / 4) - 1 else 0)),
    rs.foldl (fun f r => f ||| r.2.2) 0)

/-- Byte enables of a nibble mask. -/
def nibbleBe (m : BitVec 128) : BitVec 64 := BitVec.ofNat 64 (digits 1 (fun k => if fld m.toNat (2 * k) 2 = 0 then 0 else 1) 64)

/-- The rows a reference and an element need. -/
def ElemRef.reads : ElemRef → List Nat
  | .mem k _ _ => [k]
  | .bits _ _ => []
def ElemSrc.reads : ElemSrc → List Nat
  | .one r => r.reads
  | .sum ts => (ts.map fun t => t.1.reads ++ t.2.reads).flatten

/-- A write whose data is in the copy engine; one that needs none is formed in the cycle after launch (R232).
DEDUCED, log entry 39. -/
def Node.canForm (n : Node) (now : Nat) (w : PlanWrite) : Bool :=
  let ks := (w.elems.map fun p => p.2.reads).flatten
  !w.formed && (if ks.isEmpty then n.launchAt < now else ks.all fun k => ((n.reads[k]?).bind (·.data)).isSome)

/-- The target of a place. -/
def Place.target : Place → Target
  | .wall d b r => .wall d b r
  | .scratch d r => .scratch d r
  | .virt a => .virt a 0

/-- Form the write of index `k`. -/
def formWrite (d id k : Nat) : M :=
  M.look fun s => withNode d id fun n =>
    match n.writes[k]? with
    | none => M.skip
    | some w =>
      let r := n.row w
      M.seq (modNode d id fun m => { m with
          writes := m.writes.set k { w with formed := true }, flags := m.flags ||| r.2.2 })
        (startAcc { nodeAcc s.chip d n .nodeWrite w.dst.target k with
          fmt := w.fmt, data := r.1, be := nibbleBe r.2.1,
          a := r.2.1.extractLsb' 0 64, b := r.2.1.extractLsb' 64 64 })

/-- Form the read of index `k`. -/
def formRead (d id k : Nat) : M :=
  M.look fun s => withNode d id fun n =>
    match n.reads[k]? with
    | none => M.skip
    | some r =>
      M.seq (modNode d id fun m => { m with reads := m.reads.set k { r with formed := true } })
        (startAcc { nodeAcc s.chip d n .nodeRead r.src.target k with fmt := r.fmt })

/-- Nodes by launch, the oldest first. -/
def byLaunch (n : Node) : List Node → List Node
  | [] => [n]
  | m :: l => if n.launchAt < m.launchAt then n :: m :: l else m :: byLaunch n l

/-- Form up to `room` requests of the running nodes (R232). DEDUCED, log entry 153. -/
def formAll (d now : Nat) : Nat → List Node → M
  | _, [] => M.skip
  | room, n :: l =>
    let ws := ((List.range n.writes.length).filter fun k => match n.writes[k]? with
      | some w => n.canForm now w
      | none => false).take room
    let rs := ((List.range n.reads.length).filter fun k => match n.reads[k]? with
      | some r => !r.formed
      | none => false).take (room - ws.length)
    M.all [M.each ws (formWrite d n.id), M.each rs (formRead d n.id), formAll d now (room - ws.length - rs.length) l]

/-- Requests a die's copy engine forms in a cycle, launched nodes that run at once, and the window (R231, R232, R239). -/
def reqLimit (d : Nat) : Nat := if d < 8 then 64 else 16
def runLimit (d : Nat) : Nat := if d < 8 then 16 else 4
def windowLimit (d : Nat) : Nat := if d < 8 then 256 else 64

/-- A node takes one of the running places, now or by a launch that is set (R232). -/
def Node.running (n : Node) : Bool :=
  n.op != .migrate && (n.state == .launched || (n.state == .waiting && n.launchAt != 0))

/-- Set the launches of the next cycle (R232, R99). -/
def launchNodes (d : Nat) : M :=
  M.look fun s =>
    let x := s.chip.die d
    let c := x.copy
    let ready := c.live.filter fun n => n.state == .waiting && n.launchAt == 0 &&
      !(n.preds.any fun p => x.alive p) && cleared s.chip d n.sh n.after n.afterNodes n.afterCyc
    let migs := ready.filter fun n => n.op == .migrate
    let rest := (ready.filter fun n => n.op != .migrate).take (runLimit d - (c.live.filter Node.running).length)
    M.each (migs ++ rest) fun n =>
      M.seq (modNode d n.id fun m => { m with launchAt := s.chip.now + 1 }) (schedIn 1 (.nodeLaunch d n.id))

/-- One package cycle of a die's copy engine. -/
def copyTick (d : Nat) : M :=
  M.look fun s =>
    let c := (s.chip.die d).copy
    if c.live.isEmpty then M.skip
    else
      let run := (c.live.filter fun n => n.state == .launched && n.op != .migrate && n.fault.isNone).foldl
        (fun l n => byLaunch n l) []
      M.seq (formAll d s.chip.now (reqLimit d) run) (launchNodes d)

/-- COPY_ROW_ARRIVAL (R236): a row, or what a BASE's page gives, reaches the copy engine. -/
def execCopyRowArrival (acc : Nat) (s : State) : Host.Outcome State Fault Refusal :=
  finish s (withAcc acc fun a =>
    match a.node with
    | none => M.skip
    | some (id, k) =>
      M.seq (dropAcc acc) (
        if a.fn = 1 then
          M.seq (modNode a.die id fun n => { n with
              fmts := SMap.ins (SMap.del n.fmts (match a.target with | .virt b _ => b | _ => 0))
                (match a.target with | .virt b _ => b | _ => 0) a.fmt })
            (withNode a.die id fun n =>
              if n.op != .migrate then nodeBased a.die id
              else M.look fun t =>
                -- the page that holds the element a MIGRATE names
                match locElem t.chip a.die n.fmts (n.rec' 0) (coordAt (n.coord 0) []) with
                | .at (.virt va) _ _ =>
                  M.seq (modNode a.die id fun m => { m with va })
                    (startAcc { nodeAcc t.chip a.die n .nodeRead (.virt va 0) 0 with fn := 2 })
                | _ => schedIn 0 (.nodeRetire a.die id))
        else if a.fn = 2 then
          let va := match a.target with | .virt b _ => b | _ => 0
          M.seq (modNode a.die id fun n => { n with counts := [a.dirDie, a.off / 2 ^ 16], va, clove := some (8 + a.dirDie % 4) })
            (schedIn 0 (.msgMg (.clove a.die id)))
        else
          M.seq (modNode a.die id fun n => { n with reads := match n.reads[k]? with
              | some r => n.reads.set k { r with data := some a.data }
              | none => n.reads })
            (nodeIndexed a.die id)))

/-- PREFIX (R238): the enumerated writes all of which have performed. -/
def Node.prefix' (n : Node) : Nat := (n.writes.takeWhile (·.done)).length

/-- A write of a node has performed, or its side-log entry was discarded; the node retires with its last (R236, R346). -/
def nodeWrote (d id k : Nat) : M :=
  M.seq (modNode d id fun n => { n with writes := match n.writes[k]? with
      | some w => n.writes.set k { w with done := true }
      | none => n.writes })
    (withNode d id fun n => M.iff (n.writes.all (·.done)) (schedIn 0 (.nodeRetire d id)))

/-- Row 3 of a node's record (R341). -/
def nodeRow3 (n : Node) : Row :=
  let p := n.prefix'
  BitVec.ofNat 512 (pack [(16, n.id), (16, Rec.ver (n.rec' 0)), (16, Rec.ver (n.rec' 1)), (16, Rec.ver (n.rec' 2)), (64, p),
    (64, digits 1 (fun k => match n.writes[p + k]? with | some w => w.done.toNat | none => 0) 64)])

/-- The record and the service of a node's fault (R238, R343); a MIGRATE's is Clove's (R334), an uncorrectable row is fatal. -/
def nodeReport (d : Nat) (n : Node) : M :=
  match n.fault with
  | none => M.skip
  | some code =>
    let detail : Word := if codeHasVa code then BitVec.ofNat 64 n.va else 0
    if code = .migrateAbort then M.skip
    else if code = .uncorrectable then fatal d (n.trap code 'F' detail (uncRow3 n.bad))
    else nodeTrap d (n.trap code 'N' detail (nodeRow3 n))

/-- Push counts while the queue has room beside the `n` pushes in flight to it (R44, R245): the queue and the counts left. -/
def pushCounts (n : Nat) (q : List (BitVec 32)) : List Nat → List (BitVec 32) × List Nat
  | [] => (q, [])
  | c :: l => if 64 ≤ q.length + n then (q, c :: l) else pushCounts n (q ++ [BitVec.ofNat 32 c]) l

/-- A stream's results land in this package cycle: it runs a program cycle, or is what an ended shadow run has left. -/
def Die.landsNow (x : Die) (sh : Bool) : Bool := if sh == x.inShadow then x.steps else sh && !x.late true
/-- The pushes of a stream that are due. -/
def Ctx.pushDue (y : Ctx) (p : Pend) : Bool := p.due ≤ y.prog && (match p.land with | .push _ _ => true | _ => false)
/-- The due pushes of a stream enter their queues. -/
def Die.pushOf (x : Die) (sh : Bool) : Die :=
  let y := if sh then x.shadow else x.main
  if x.landsNow sh then
    let queues := (y.pend.filter y.pushDue).foldl (fun m p => match p.land with
      | .push q v => SMap.set [] m q (SMap.get [] m q ++ [v])
      | _ => m) x.queues
    let z := { y with pend := y.pend.filter fun p => !y.pushDue p }
    if sh then { x with queues, shadow := z } else { x with queues, main := z }
  else x
/-- The CQPUSH landings of a cycle go before the counts that CDISPATCH pushes in it (R267). -/
def Die.pushFirst (x : Die) : Die := (x.pushOf false).pushOf true

/-- The distinct wall rows a copy writes, in order of first write (R241). -/
def Node.wallRows (n : Node) : List (Nat × Nat) :=
  n.writes.filterMap fun w => match w.dst with | .wall _ b r => some (b, r) | _ => none

/-- NODE_RETIRE (R236, R241, R44): a CCOPYF first runs its follow-on; CDISPATCH pushes its counts, as far as the queue has
room; then flags, named retirement, arrival, the window, and a fault's record. DEDUCED, log entry 111. -/
def execNodeRetire (die node : Nat) (s : State) : Host.Outcome State Fault Refusal :=
  onDie die s (withNode die node fun n =>
    let x := if n.op = .dispatch then (s.chip.die die).pushFirst else s.chip.die die
    if n.fault.isNone && (x.matrix.follow.any fun f => f.node == some node) then
      modMatrix die fun m =>
        let follow := m.follow.map fun f =>
          if f.node = some node && !f.ready then { f with rows := n.wallRows, ready := true } else f
        { m with follow }
    else
      let q := n.args.aux % 4
      let push := if n.fault.isNone && n.op == .dispatch then pushCounts (x.pushes q) (x.counts q) n.counts else (x.counts q, [])
      M.seq (modDie die fun y => if n.op = .dispatch then
          let z := y.pushFirst
          { z with queues := SMap.set [] z.queues q push.1 } else y)
        (if !push.2.isEmpty then
          M.seq (modNode die node fun m => { m with counts := push.2 }) (schedIn 1 (.nodeRetire die node))
        else M.all [
          modNode die node fun m => { m with state := .retired, counts := [] },
          modDie die fun y => { y with
            entries := y.entries.map fun e => if e.what = .node node then { e with arrived := true } else e,
            copy := { y.copy with
              nodes := y.copy.nodes ++ y.copy.waiting.take 1, waiting := y.copy.waiting.drop 1 } },
          modDie die fun y => y.raise n.flags n.arv,
          followDrop die node,
          nodeReport die n]))

/-! ### The C slot (R231-R234, R240-R248) -/

/-- The node a back-distance names, if it has not retired (R134, R232). -/
def Die.back (x : Die) (k : Nat) : Option Nat := if k = 0 then none else (x.copy.hist[k - 1]?).bind id
/-- Distinct nodes that P1 and P2 name and that have not retired. -/
def Die.named (x : Die) (p1 p2 : Nat) : List Nat :=
  ((([x.back p1, x.back p2].filterMap id).eraseDups).filter fun i => x.alive i)

/-- A record the command names: its number must not exceed 511 (R233), its RANK must not be 0 (R88). -/
def withRec (n : Nat) (k : Rec → M) : M :=
  M.look fun s =>
    if 511 < n then trap .copyRange
    else
      let r := s.cx.rtl n
      if Rec.rank r = 0 then trapWith .layoutReserved (layoutDetail n 68 true r) 0 else k r

/-- Several records in order. -/
def withRecs : List Nat → (List Rec → M) → M
  | [], k => k []
  | n :: l, k => withRec n fun r => withRecs l fun rs => k (r :: rs)

/-- A mismatch that the records show (R235). -/
def recsMove (a b : Rec) : Bool := Rec.space a == 2 || Rec.space b == 2 || fmtMoves (Rec.fmt a) (Rec.fmt b)
/-- A record of a fixed format, as far as it shows one. -/
def recIs (r : Rec) (f : Nat) : Bool := Rec.space r == 2 || Rec.fmt r == f

/-- The executed C command enters the history of back-distances (R134), and nodes no distance names are forgotten. -/
def pushHist (h : Option Nat) : M :=
  modMe fun x =>
    let hist := (h :: x.copy.hist).take 15
    { x with copy := { x.copy with
      hist, nodes := x.copy.nodes.filter fun n => n.state != .retired || hist.contains (some n.id) } }

/-- Form the node (R231-R235): window, id, predecessors, named retirement. -/
def formNode (op : NodeOp) (a : CArgs) (recs : List Rec) (m : Nat → M) : M :=
  M.look fun s =>
    let x := s.me
    let w0 := s.cx.rs a.ss
    let id := x.copy.next
    let xc := fld w0.toNat 25 5
    let path := if op = .gather then 5 else 4
    let f := x.fenceOver path x.inShadow true
    let n : Node := {
      id, op, args := a, state := .waiting, preds := x.named a.p1 a.p2, issued := s.chip.now, bundle := s.cx.pc, prog := s.cx.prog,
      site := x.site s.cx .c, sh := x.inShadow, recs, coords := [s.cx.rc a.ca, s.cx.rc a.cb, s.cx.rc a.cw, s.cx.rc xc],
      fp := x.fpctl, word0 := w0, word1 := s.cx.rs (a.ss + 1), entry := none, arv := s.arvOf, after := f.1, afterNodes := f.2.1,
      afterCyc := f.2.2, launchAt := 0, stage := 0, fmts := [], reads := [], writes := [], fault := none, va := 0,
      bad := 0, row4 := 0, flags := 0, counts := [] }
    let full := windowLimit s.cd ≤ x.copy.live.length
    let arr := fld w0.toNat 0 16
    let place := M.all [
      modMe fun y => { y with copy := { y.copy with
        next := (id + 1) % 65536, wrapped := y.copy.wrapped || id == 65535,
        nodes := if full then y.copy.nodes else y.copy.nodes ++ [n],
        waiting := if full then y.copy.waiting ++ [n] else y.copy.waiting } },
      pushHist (some id), M.iff full (modCx fun y => { y with waits := y.waits ++ [.window] }), m id]
    need (op == .migrate || (List.range n.rank).all fun d => 0 ≤ coordX (n.coord 2) d) .copyRange <|
    if arr = 0 then place else namedReq arr (.node id) fun _ => place

/-- CCOPY (R240). -/
def execCcopy (a : CArgs) (s : State) : Host.Outcome State Fault Refusal :=
  finish s (withRec a.tla fun ra => withRec a.tlb fun rb =>
    need (recsMove ra rb) .copyFormat (formNode .copy a [ra, rb] fun _ => M.skip))

/-- CFILL (R240). -/
def execCfill (a : CArgs) (s : State) : Host.Outcome State Fault Refusal :=
  finish s (withRec a.tla fun ra => formNode .fill a [ra, 0] fun _ => M.skip)

/-- The MOp of a command CCOPYF may capture (R135). -/
def followOp : Instr → Option (MOp × MArgs)
  | .mma a => some (.mma, a)
  | .mmag a => some (.mmag, a)
  | .mmac a => some (.mmac, a)
  | .mrank a => some (.mrank, a)
  | _ => none

/-- The first check that the M content of a CCOPYF fails, none when it may be captured (R135, R216). -/
def State.followBad (s : State) (a : CArgs) : Option Code :=
  match decodeFollow a.follow with
  | .error c => some c
  | .ok i => match followOp i with
    | none => some .illegalOp
    | some (op, ma) => if s.me.matrix.avail s.me.matrix.tile.km then s.captureBad op ma else some .shapeLost

/-- CCOPYF (R241, R216): its follow-on is checked in full at its issue, at the C slot's place in the order of R125 (R135). -/
def execCcopyf (a : CArgs) (s : State) : Host.Outcome State Fault Refusal :=
  finish s (computeOnly (M.look fun s' => match s'.followBad a with
    | some c => trap c
    | none => withRec a.tla fun ra => withRec a.tlb fun rb =>
      need (recsMove ra rb) .copyFormat <| need (Rec.space ra == 0) .wrongSpace <|
      match (decodeFollow a.follow).toOption.bind followOp with
      | none => M.skip
      | some (op, ma) => captureCmd op ma fun cap => formNode .copyf a [ra, rb] fun id => followCapture id cap))

/-- XT of the operand word (R233). -/
def State.xt (s : State) (a : CArgs) : Nat := fld (s.cx.rs a.ss).toNat 16 9

/-- CGATHER (R242). DEDUCED, log entry 155. -/
def execCgather (a : CArgs) (s : State) : Host.Outcome State Fault Refusal :=
  finish s (computeOnly (withRec a.tla fun ra => withRec a.tlb fun rb => withRec (s.xt a) fun rx =>
    need (recIs rx 10) .copyFormat <| need (Rec.rank rb ≤ Rec.rank ra) .copyShape <| need (recsMove ra rb) .copyFormat <|
    formNode .gather a [ra, rb, rx] fun _ => M.skip))

/-- CSCATTER (R244). -/
def execCscatter (a : CArgs) (s : State) : Host.Outcome State Fault Refusal :=
  finish s (computeOnly (withRec a.tla fun ra => withRec a.tlb fun rb => withRec (s.xt a) fun rx =>
    need (recIs rx 10) .copyFormat <| need (Rec.rank ra ≤ Rec.rank rb) .copyShape <| need (recsMove ra rb) .copyFormat <|
    formNode .scatter a [ra, rb, rx] fun _ => M.skip))

/-- The group records of CDISPATCH and CCOMBINE (R245, R246). -/
def State.groups (s : State) (a : CArgs) (first : Nat) : List Nat :=
  let w := (s.cx.rs a.ss).toNat
  let e := fld w 30 8 + 1
  let epd := fld w 41 8 + 1
  (List.range ((e + epd - 1) / epd)).map (first + ·)

/-- CDISPATCH (R245). -/
def execCdispatch (a : CArgs) (s : State) : Host.Outcome State Fault Refusal :=
  finish s (computeOnly (withRec a.tlb fun rb => withRecs [s.xt a, s.xt a + 1] fun xs => withRecs (s.groups a a.tla) fun gs =>
    need (xs.all fun r => recIs r 10) .copyFormat <| need (gs.all fun r => Rec.rank r == Rec.rank rb + 1) .copyShape <|
    need (gs.all fun r => recsMove r rb) .copyFormat <|
    formNode .dispatch a ([gs.headD 0, rb] ++ xs ++ [0] ++ gs) fun _ => M.skip))

/-- CCOMBINE (R246). -/
def execCcombine (a : CArgs) (s : State) : Host.Outcome State Fault Refusal :=
  finish s (computeOnly (withRec a.tla fun ra => withRecs [s.xt a, s.xt a + 1, s.xt a + 2] fun xs =>
    withRecs (s.groups a a.tlb) fun gs =>
    need (recIs (xs.getD 0 0) 10 && recIs (xs.getD 1 0) 10 && recIs (xs.getD 2 0) 1 &&
      (ra :: gs).all fun r => Rec.space r == 2 || convFmt (Rec.fmt r)) .copyFormat <|
    formNode .combine a ([ra, gs.headD 0] ++ xs ++ gs) fun _ => M.skip))

/-- MIGRATE (R303). -/
def execMigrate (a : CArgs) (s : State) : Host.Outcome State Fault Refusal :=
  finish s (privileged (withRec a.tla fun ra =>
    need (Rec.space ra == 2) .wrongSpace (formNode .migrate a [ra, 0] fun _ => M.skip)))

/-- CWAIT (R247): the die holds until the nodes it names have retired, or every node of the window. -/
def execCwait (a : CArgs) (s : State) : Host.Outcome State Fault Refusal :=
  let ids := if a.p1 = 0 && a.p2 = 0 then s.me.copy.live.map (·.id) else s.me.named a.p1 a.p2
  finish s (M.all [pushHist none,
    M.iff (!ids.isEmpty) (modCx fun x => { x with waits := x.waits ++ [.nodes ids] }), arriveAt 1])

/-- The word CSTATUS writes (R248). DEDUCED, log entry 156. -/
def Die.cstatus (x : Die) (k : Nat) : Word :=
  if k = 0 then
    let run := (x.copy.live.filter fun n => n.state == .launched && n.op != .migrate).length
    BitVec.ofNat 64 (pack [(9, x.copy.live.length), (5, run), (2, 0), (16, x.copy.next)])
  else match x.back k with
    | none => 1
    | some id =>
      match x.copy.nodes.find? fun n => n.id == id with
      | some n =>
        BitVec.ofNat 64 (pack [(1, (n.state == .retired).toNat), (1, (n.state != .waiting).toNat),
          (2, (n.preds.filter fun p => x.alive p).length), (1, (n.state == .retired && n.fault.isSome).toNat), (11, 0), (16, id),
          (32, n.prefix')])
      | none => BitVec.ofNat 64 (id * 2 ^ 16)

/-- CSTATUS (R248). -/
def execCstatus (a : CArgs) (s : State) : Host.Outcome State Fault Refusal :=
  finish s (M.all [laterS 1 a.ss (s.me.cstatus a.p1), pushHist none, arriveAt 1])

end Sys2Proof.Machine
end

