-- ==== Sys2Proof/Machine/Remote.lean ====
section
/-!
DEFINITION. The Y slot's memory forms (R249-R257, R262-R264, R268, R269, R301, R302): targets, loads, stores, atomics, reductions,
wheel operations, timed transfers, optical rows, placement entries and device-physical words.
-/

namespace Sys2Proof.Machine

/-! ### Targets (R249, R397) -/

/-- Where an operand lies. -/
inductive YPlace where
  /-- Beyond the extents of a wall record: the fill row. -/
  | beyond (row : Row)
  /-- Beyond the extents of a space-2 record: BASE, whose page gives the format, and FILL (R323). -/
  | fill (base fill : Nat)
  /-- A target, and the word of its row where that is known at issue. -/
  | at (t : Target) (word : Nat)
  | bad (code : Code) (detail : Word) (names : List Nat)

/-- Resolve TL and C for a memory form of the Y slot (R249, R76, R88). -/
def yplace (s : State) (tl c : Nat) : YPlace :=
  let r := s.cx.rtl tl
  if Rec.rank r == 0 then .bad .layoutReserved (layoutDetail tl 68 true r) []
  else match offsetOf r (coordX (s.cx.rc c)) with
    | none => if Rec.space r == 2 then .fill (Rec.base r) (Rec.fill r) else .beyond (fillRow (Rec.fmt r) (Rec.fill r))
    | some o =>
      if Rec.space r == 2 then .at (.virt (Rec.base r) o) 0
      else
        let p := wallPos r o
        let word := if Rec.fmt r == 0 then 0 else p.elem * fmtWidth (Rec.fmt r) % 512 / 64
        if s.house && Rec.space r == 0 then
          (if 0 ≤ p.row && p.row < 256 then .at (.scratch s.cd (p.bank % 16 * 256 + p.row.toNat)) word else .bad .wallRange 0 [p.bank])
        else if rowIn p.row && s.me.bankOk p.bank then
          .at (.wall (if Rec.space r == 0 then s.cd else Rec.die r) p.bank p.row.toNat) word
        else .bad .wallRange 0 [p.bank]

/-- The target of a form, or the trap. DEDUCED, log entry 44. -/
def withPlace (a : YArgs) (k : YPlace → M) : M :=
  M.look fun s => match yplace s a.tl a.c with
    | .bad code detail names => trapNaming code detail names
    | p => k p

/-- Only records of one space (R249, R301, R302). -/
def inSpace (a : YArgs) (sp : Nat) (m : M) : M :=
  M.look fun s => if Rec.rank (s.cx.rtl a.tl) != 0 && Rec.space (s.cx.rtl a.tl) != sp then trap .wrongSpace else m

/-- An access aimed at a place. -/
def Acc.aim (a : Acc) (p : YPlace) : Acc :=
  match p with
  | .beyond row => { a with target := .beyond, data := row }
  | .fill base f => { a with target := .virt base 0, fill := some f }
  | .at t w => { a with target := t, word := w }
  | .bad _ _ _ => a

/-- The 64-bit element of MMLD and MMST (R302, R397): none beyond the extents. -/
def mmPlace (s : State) (a : YArgs) : Option (Target × Nat) :=
  let r := s.cx.rtl a.tl
  (offsetOf r (coordX (s.cx.rc a.c))).map fun o =>
    let b : Int := ((Rec.base r % 2 ^ 58 : Nat) : Int) + 8 * o
    let off := if b < 0 then 2 ^ 58 else b.toNat
    (.phys (Rec.f r 60 4) (Rec.f r 58 2) off, off % 64 / 8)

/-! ### Loads and stores (R250, R251, R253, R257) -/

/-- The load of a word or a row: an entry named for issue + ARR (R250). -/
def yload (a : YArgs) (f : Acc → Acc) : M :=
  M.look fun s => fabricLoad a.arr (if a.fn = 1 then .row a.sx s.cx.rotb else .word (s.physReg a.sx)) f
/-- A write: a target beyond the extents of a wall record drops it (R249). -/
def ystore (p : YPlace) (f : Acc → Acc) : M :=
  match p with
  | .beyond _ => M.skip
  | p => fabricStore fun x => f (x.aim p)

/-- The eight scalars of a row form (R253). -/
def State.rowAt (s : State) (sx : Nat) : Row := rowOf fun k => s.cx.rs (sx + k)

/-- LDREM (R253). -/
def execLdrem (a : YArgs) (s : State) : Host.Outcome State Fault Refusal :=
  finish s (withPlace a fun p => yload a fun x => { x with kind := if a.fn = 1 then .ldRow else .ldWord, fn := a.fn }.aim p)
/-- STREM (R253). -/
def execStrem (a : YArgs) (s : State) : Host.Outcome State Fault Refusal :=
  finish s (withPlace a fun p => ystore p fun x =>
    if a.fn = 1 then { x with kind := .stRow, fn := 1, data := s.rowAt a.sx } else { x with kind := .stWord, a := s.cx.rs a.sx })

/-- The wheel pair of an operation issued now (R110). -/
def onWheel (s : State) (x : Acc) : Acc := { x with sc := some (s.chip.now / 2) }
/-- The die has issued its operation of this position (R109). -/
def tookWheel (m : M) : M := M.look fun s => M.seq (modMe fun x => { x with lastSc := some (s.chip.now / 2) }) m

/-- SCLD (R257). -/
def execScld (a : YArgs) (s : State) : Host.Outcome State Fault Refusal :=
  finish s (computeOnly (withPlace a fun p =>
    tookWheel (fabricLoad a.arr (.word (s.physReg a.sx)) fun x => onWheel s ({ x with kind := .scld }.aim p))))
/-- SCST (R257). -/
def execScst (a : YArgs) (s : State) : Host.Outcome State Fault Refusal :=
  finish s (computeOnly (withPlace a fun p =>
    tookWheel (ystore p fun x => onWheel s { x with kind := .scst, a := s.cx.rs a.sx })))

/-! ### Atomics and reductions (R254, R255) -/

/-- The new word of an atomic (R254). -/
def atomNew (fn : Nat) (o a c : Word) : Word :=
  match fn with
  | 0 => o + a
  | 1 => o &&& a
  | 2 => o ||| a
  | 3 => o ^^^ a
  | 4 => if a.slt o then a else o
  | 5 => if o.slt a then a else o
  | 6 => a
  | _ => if o = c then a else o

/-- ATOM and SCRMW at a place: with ARR = 0 a write, else a load of the old word (R254). -/
def atomic (a : YArgs) (p : YPlace) (f : Acc → Acc) : M :=
  M.look fun s =>
    let g (x : Acc) : Acc := f { x with fn := a.fn, a := s.cx.rs a.sx, b := s.cx.rs (a.sx + 1) }
    if a.arr = 0 then ystore p g else fabricLoad a.arr (.word (s.physReg a.sx)) fun x => (g x).aim p

/-- ATOM (R254). -/
def execAtom (a : YArgs) (s : State) : Host.Outcome State Fault Refusal :=
  finish s (withPlace a fun p => atomic a p fun x => { x with kind := .atom })
/-- SCRMW (R254, R109). -/
def execScrmw (a : YArgs) (s : State) : Host.Outcome State Fault Refusal :=
  finish s (computeOnly (withPlace a fun p => tookWheel (atomic a p fun x => onWheel s { x with kind := .scrmw })))

/-- The lesser or the greater of two FP32 codes: -0 < +0, a NaN gives the default NaN (R255). -/
def redMinMax (max : Bool) (x y : Nat) : Nat :=
  let a := decodeNum 1 x
  let b := decodeNum 1 y
  if a.isNan || b.isNan then 0x7FC00000
  else
    let less := if a.isZero && b.isZero then a.sign else Num.lt a b
    if less != max then x else y

/-- One combine of a reduction (R255). -/
def redElem (fn x y : Nat) : Nat :=
  match fn with
  | 0 => (x + y) % 2 ^ 32
  | 1 => (x + y) % 2 ^ 64
  | 2 => (roundTo 1 ⟨.rne, 8, false⟩ (Num.add .rne (decodeNum 1 x) (decodeNum 1 y)) 0).1
  | 3 => if sint 32 y < sint 32 x then y else x
  | 4 => if sint 32 x < sint 32 y then y else x
  | 5 => redMinMax false x y
  | 6 => redMinMax true x y
  | _ => x ||| y

/-- Combine two rows element by element (R255). -/
def redRow (fn : Nat) (x y : Row) : Row :=
  let w := if fn = 1 || fn = 7 then 64 else 32
  BitVec.ofNat 512 (digits w (fun k => redElem fn (fld x.toNat (w * k) w) (fld y.toNat (w * k) w)) (512 / w))

/-- RED (R255). -/
def execRed (a : YArgs) (s : State) : Host.Outcome State Fault Refusal :=
  finish s (withPlace a fun p => ystore p fun x => { x with kind := .red, fn := a.fn, data := s.rowAt a.sx })

/-- RED_WINDOW_EXPIRE (R256): the entry leaves toward the home with everything combined into it. -/
def execRedWindowExpire (die entry : Nat) (s : State) : Host.Outcome State Fault Refusal :=
  onDie die s (redLeave die entry)

/-! ### Timed transfers (R262-R264) -/

/-- The launch that runs on a die. -/
def Chip.launchOf (c : Chip) (d : Nat) : Option Launch := c.launches.find? fun l => some l.id == (c.die d).launch

/-- The checks SEND and RECV share (R262): `k` takes the other die, the tag and the row. DEDUCED, log entry 131. -/
def transferForm (a : YArgs) (used : Die → List (Nat × Nat)) (k : Nat → Nat → YPlace → M) : M :=
  computeOnly (M.look fun s =>
    let x := s.cx.rs a.sx
    let peer := fld x.toNat 0 4
    let tag := fld x.toNat 8 8
    need s.me.comm .wrongPhase <| inSpace a 0 <|
    need (match s.chip.launchOf s.cd with | some l => l.parties.any fun p => p.1 == peer | none => false) .sendTarget <|
    need (!(used s.me).contains (peer, tag)) .tagReuse <|
    withPlace a fun p => k peer tag p)

/-- SEND (R263): the row is read at issue, or once a fence over its path lets it (R99), and reaches the other die's staging after its
hops. -/
def execSend (a : YArgs) (s : State) : Host.Outcome State Fault Refusal :=
  finish s (transferForm a Die.sent fun peer tag p =>
    need (((s.me.sent.filter fun q => q.1 == peer).length) < 32) .sendLimit <|
    let go (at' : Target) (row : Row) : M := M.look fun t =>
      M.seq (modMe fun y => { y with sent := y.sent ++ [(peer, tag)] })
        (issueAcc { blankAcc t.chip t.cd .send at' with
          home := some peer, data := row, a := BitVec.ofNat 64 tag, b := BitVec.ofNat 64 t.me.ssnum.toNat })
    match p with
    | .at (.wall d bank row) _ => readPort bank row (go (.wall d bank row) 0)
    | .beyond row => go .beyond row
    | _ => M.skip)

/-- The row write of a RECV waits for the fences over its path (R99, R104). DEDUCED, log entry 122. -/
def gateRecv (id : Nat) : M :=
  modMe fun x =>
    let f := x.fenceOver 6 x.inShadow true
    let entries := x.entries.map fun e =>
      if e.id = id then { e with after := f.1, afterNodes := f.2.1, afterCyc := f.2.2 } else e
    { x with entries }

/-- RECV (R263): it takes an entry, and its bank's write port in cycle t; a staged row comes at once. -/
def execRecv (a : YArgs) (s : State) : Host.Outcome State Fault Refusal :=
  finish s (transferForm a Die.recvd fun peer tag p =>
    let go (bank row : Nat) : M := namedReq a.arr (.recv bank row peer tag) fun id => M.look fun t =>
      M.all [modMe fun x => { x with recvd := x.recvd ++ [(peer, tag)] }, gateRecv id,
        match t.me.staging.find? fun q => q.1 == peer && q.2.1 == tag with
          | none => M.skip
          | some q => modMe fun x => { x with
              staging := x.staging.filter fun r => !(r.1 == peer && r.2.1 == tag),
              entries := x.entries.map fun e => if e.id = id then { e with arrived := true, data := q.2.2 } else e }]
    match p with
    | .at (.wall _ bank row) _ => M.look fun t =>
      let cyc := t.cx.prog + a.arr
      orTrap .bankConflict (portClash t.me cyc bank row true) (M.seq (reserve cyc bank row true false) (go bank row))
    | _ => go 1024 0)

/-! ### Optical rows (R268, R269) -/

/-- OSEND (R268): another space is reported as a discarded write (R249, R251). DEDUCED, log entry 47. -/
def execOsend (a : YArgs) (s : State) : Host.Outcome State Fault Refusal :=
  finish s (
    let put (x : Acc) : Acc := { x with kind := .osend, data := s.rowAt a.sx }
    if Rec.rank (s.cx.rtl a.tl) != 0 && Rec.space (s.cx.rtl a.tl) != 2 then
      M.look fun t =>
        let x := put (blankAcc t.chip t.cd .osend .beyond)
        M.seq (M.mod fun c => { c with accs := c.accs ++ [x], nextId := max c.nextId (x.id + 1) }) (accFail x.id .wrongSpace 0)
    else withPlace a fun p => match p with
      | .beyond _ => M.skip
      | p => M.look fun t => startAcc (put ((blankAcc t.chip t.cd .osend .beyond).aim p)))

/-- OSTAT (R269). -/
def execOstat (_q sx : Nat) (s : State) : Host.Outcome State Fault Refusal :=
  let dest := fld (s.cx.rs sx).toNat 0 8
  finish s (laterS 1 sx (BitVec.ofNat 64 (pack [(8, dest), (9, (SMap.get [] s.chip.oqueue dest).length), (15, 0),
    (16, (SMap.get 0 s.me.odone dest).toNat), (16, (SMap.get 0 s.me.overrun dest).toNat)])))

/-! ### Placement entries and device-physical words (R301, R302, R320) -/

/-- A value PLWRITE may write (R320). -/
def plOk (v : Nat) : Bool :=
  fld v 6 2 == 0 && fld v 41 1 == 0 && fld v 46 18 == 0 && fmtGeomOk (fld v 36 4) (fld v 40 1) &&
    (fld v 0 2 == 3 || (dieMatches (fld v 0 2) (fld v 2 4) && (fld v 0 2 == 2 || fld v 8 28 != 0)))

/-- PLREAD (R301). DEDUCED, log entry 45. -/
def execPlread (a : YArgs) (s : State) : Host.Outcome State Fault Refusal :=
  finish s (privileged (inSpace a 2 (withPlace a fun p =>
    fabricLoad a.arr (.word (s.physReg a.sx)) fun x =>
      let y := { x with kind := .plread }
      match p with
      | .at t _ => { y with target := t }
      | _ => { y with target := .beyond, data := 0 })))
/-- PLWRITE (R301). -/
def execPlwrite (a : YArgs) (s : State) : Host.Outcome State Fault Refusal :=
  finish s (privileged (inSpace a 2 (need (plOk (s.cx.rs a.sx).toNat) .plState (withPlace a fun p =>
    match p with
    | .at t _ => fabricStore fun x => { x with kind := .plwrite, target := t, a := s.cx.rs a.sx }
    | _ => M.skip))))

/-- A record MMLD and MMST may name. -/
def mmForm (a : YArgs) (m : M) : M :=
  privileged (M.look fun s =>
    let r := s.cx.rtl a.tl
    if Rec.rank r == 0 then trapWith .layoutReserved (layoutDetail a.tl 68 true r) 0 else inSpace a 2 m)

/-- MMLD (R302, R397). -/
def execMmld (a : YArgs) (s : State) : Host.Outcome State Fault Refusal :=
  finish s (mmForm a (yload a fun x =>
    let y := { x with kind := if a.fn = 1 then .mmldRow else .mmld, fn := a.fn }
    match mmPlace s a with
    | some (t, w) => { y with target := t, word := w }
    | none => { y with target := .beyond, data := 0 }))
/-- MMST (R302, R397). -/
def execMmst (a : YArgs) (s : State) : Host.Outcome State Fault Refusal :=
  finish s (mmForm a (match mmPlace s a with
    | some (t, w) => fabricStore fun x =>
      { x with kind := if a.fn = 1 then .mmstRow else .mmst, target := t, word := w, fn := a.fn, data := s.rowAt a.sx,
               a := s.cx.rs a.sx }
    | none => M.skip))

end Sys2Proof.Machine
end

