-- ==== Sys2Proof/Machine/Sync.lean ====
section
/-!
DEFINITION. Fences (R99, R103-R105, R258), local barriers (R259-R261), wait on address (R265, R266) and count queues (R267).
-/

namespace Sys2Proof.Machine

/-- The die holds before its next bundle (R42). -/
def addWait (w : Wait) : M := modCx fun x => { x with waits := x.waits ++ [w] }

/-! ### Fences -/

/-- A write that DRAIN covers (R103). -/
def AccKind.drained : AccKind → Bool
  | .stWord | .stRow | .atom | .red | .scst | .scrmw | .send | .plwrite | .mmst | .mmstRow => true
  | _ => false

/-- Writes a DRAIN with the mask must see performed. -/
def Chip.drainSet (c : Chip) (d mask : Nat) : List Nat :=
  (c.accs.filter fun a => a.die == d && a.kind.drained && c.pendingAt mask a.id).map (·.id)

/-- Fabric accesses of the die whose home is, or may be, the die itself, and the RECVs whose row is still to be written (R99). -/
def Chip.ownSet (c : Chip) (d : Nat) : List Nat :=
  (c.accs.filter fun a => a.die == d && a.path == 6 && c.ownPending d a.id).map (·.id) ++
    ((c.die d).entries.filter Entry.isRecv).map (·.id)
/-- The RECVs whose row has landed and is still to be written. -/
def Die.recvsDue (x : Die) : List Nat := (x.main.wpend ++ x.shadow.wpend).filterMap (·.recv)

/-- Nodes of the paths in the mask that have not retired: bit 4 copy, bit 5 gather (R94). -/
def Die.nodesOf (x : Die) (mask : Nat) : List Nat :=
  ((x.copy.live ++ x.copy.waiting).filter fun n => n.op != .migrate && bitOf mask (if n.op = .gather then 5 else 4)).map (·.id)

/-- The program cycle from which every scheduled access of the paths in the mask, issued so far, has performed (R96, R99). -/
def Ctx.schedDone (x : Ctx) (mask : Nat) : Nat :=
  let ws := (x.wpend.filter fun w => bitOf mask w.path).map fun w => w.due + 1
  let ks := if bitOf mask 3 then (x.pend.filter fun p => match p.land with | .kstore _ _ _ _ _ _ => true | _ => false).map fun p =>
    p.due + 9 else []
  let xs := if bitOf mask 0 then x.pend.map fun p => match p.land with | .xread _ _ _ rows => p.due + rows.length | _ => 0 else []
  (ws ++ ks ++ xs).foldl Nat.max 0

/-- FENCEP (R99): what X still holds, by mechanism of the table. FENCED gates accesses to every home behind the scheduled ones
(R104). DEDUCED, log entry 122. -/
def fencePaths (sm dm : Nat) (far : Bool) : M :=
  M.look fun s =>
    let accs := if bitOf sm 6 then s.chip.ownSet s.cd else []
    let nodes := s.me.nodesOf sm
    let cyc := if dm / 16 = 0 then 0 else s.cx.schedDone (sm % 16)
    let gate (l k : List Nat) : M :=
      M.iff (dm / 16 != 0) (modMe fun x => { x with fences := x.fences ++ [⟨dm, x.inShadow, l, k, cyc, far⟩] })
    if dm % 16 != 0 && !(accs.isEmpty && nodes.isEmpty) then M.seq (addWait (.fence accs nodes)) (gate [] [])
    else gate (accs ++ if bitOf sm 6 then s.me.recvsDue else []) nodes

/-- FENCEP (R99, R258). -/
def execFencep (sm dm : Nat) (s : State) : Host.Outcome State Fault Refusal :=
  finish s (if sm = 0 || dm = 0 then M.skip else fencePaths sm dm false)

/-- The die mask of DRAIN, FENCED and ATCINV (R105): DIE-MASK, or the dies inside the fence scope. -/
def dieMask (w : Word) (k : Nat → M) : M :=
  M.look fun s =>
    if fld w.toNat 12 4 != 0 then trap .dieMask
    else k ((List.range 12).foldl (fun m d => if bitOf w.toNat d && bitOf (viewScope s.me.view s.me.dev) d then m + 2 ^ d else m) 0)

/-- The hold of a DRAIN (R103). DEDUCED, log entry 21. -/
def drainHold (mask : Nat) : M :=
  M.look fun s => let l := s.chip.drainSet s.cd mask; M.iff (mask != 0 && !l.isEmpty) (addWait (.drain mask l))

/-- DRAIN (R103, R258). -/
def execDrain (_q sx : Nat) (s : State) : Host.Outcome State Fault Refusal :=
  finish s (dieMask (s.cx.rs sx) drainHold)
/-- FENCED (R104): FENCEP with every path in both masks, and DRAIN; a mask of 0 orders nothing (R105). -/
def execFenced (_q sx : Nat) (s : State) : Host.Outcome State Fault Refusal :=
  finish s (dieMask (s.cx.rs sx) fun m => M.iff (m != 0) (M.seq (fencePaths 127 127 true) (drainHold m)))

/-! ### Local barriers -/

/-- BINIT (R260). -/
def execBinit (b sx _pd _sd : Nat) (s : State) : Host.Outcome State Fault Refusal :=
  finish s (later 1 (.binit b (fld (s.cx.rs sx).toNat 0 16)))
/-- BARR (R260). -/
def execBarr (b sx _pd _sd : Nat) (s : State) : Host.Outcome State Fault Refusal :=
  finish s (later 1 (.barr b (if sx = 0 then 1 else fld (s.cx.rs sx).toNat 0 16)))

/-- The phase BWAIT waits for is complete (R261). -/
def Barrier.passed (b : Barrier) (v : Nat) : Bool :=
  let k := (b.phase - BitVec.ofNat 16 v).toNat
  1 ≤ k && k ≤ 32767
/-- The result of a BWAIT. -/
def Barrier.result (b : Barrier) (status : Nat) : Word :=
  BitVec.ofNat 64 (pack [(2, status), (14, 0), (16, b.phase.toNat), (16, b.count.toNat), (16, b.target.toNat)])

/-- Change one stream of a die: the shadow context's, or the die's own. -/
def modStream (d : Nat) (sh : Bool) (f : Ctx → Ctx) : M :=
  modDie d fun x => if sh then { x with shadow := f x.shadow } else { x with main := f x.main }
/-- A result lands in a register of a stream at L = 1 after a hold: with the landings of its next program cycle. -/
def landNext (d : Nat) (sh : Bool) (l : Land) : M := modStream d sh fun y => { y with pend := y.pend ++ [⟨y.prog, y.prog, l⟩] }
/-- Into a scalar, by its physical number; 0 discards. -/
def landS (d : Nat) (sh : Bool) (n : Nat) (v : Word) : M := if n = 0 then M.skip else landNext d sh (.s n v)
/-- Into a predicate. -/
def landP (d : Nat) (sh : Bool) (n : Nat) (b : Bool) : M := if n = 0 then M.skip else landNext d sh (.p n b)

/-- The last package cycle of a limit: 0xFFFFFF is none (R261, R265, R305). -/
def limitOf (now lim : Nat) : Option Nat := if lim = 0xFFFFFF then none else some (now + lim)
/-- The timeout event of a limit. -/
def schedLimit (l : Option Nat) (i : Instr) : M := match l with | some t => sched t i | none => M.skip

/-- Remove a wait of a stream. -/
def endWait (d : Nat) (sh : Bool) (w : Wait) : M := modStream d sh fun x => { x with waits := x.waits.filter (· != w) }
/-- A piece for every wait of both streams of a die. -/
def eachWait (d : Nat) (k : Bool → Wait → M) : M :=
  M.look fun s => M.seq (M.each (s.chip.die d).main.waits (k false)) (M.each (s.chip.die d).shadow.waits (k true))
/-- A physical predicate name; 0 discards. -/
def State.physPd (s : State) (n : Nat) : Nat := if n = 0 then 0 else physP s.cx.rotb n

/-- BWAIT (R261). -/
def execBwait (b sx pd sd : Nat) (s : State) : Host.Outcome State Fault Refusal :=
  let w := (s.cx.rs sx).toNat
  let v := fld w 0 16
  let lim := fld w 16 24
  let bar := SMap.get {} s.me.barriers b
  let lm := limitOf s.chip.now lim
  finish s (
    if bar.passed v then M.seq (laterS 1 sd (bar.result 0)) (laterP 1 pd true)
    else if lim = 0 then M.seq (laterS 1 sd (bar.result 2)) (laterP 1 pd false)
    else M.seq (addWait (.bwait b v lm (s.physPd pd) (s.physReg sd))) (schedLimit lm (.bwaitTimeout s.cd)))

/-- A BWAIT ends: completion wins over the limit (R261). -/
def endBwait (d : Nat) (sh : Bool) (w : Wait) (b v pd sd : Nat) (expired : Bool) : M :=
  M.look fun s =>
    let bar := SMap.get {} (s.chip.die d).barriers b
    if bar.passed v then M.all [endWait d sh w, landS d sh sd (bar.result 0), landP d sh pd true]
    else if expired then M.all [endWait d sh w, landS d sh sd (bar.result 1), landP d sh pd false]
    else M.skip

/-- BWAIT_TIMEOUT (R261): the limit of the die's BWAIT has passed in this package cycle. -/
def execBwaitTimeout (die : Nat) (s : State) : Host.Outcome State Fault Refusal :=
  onDie die s (eachWait die fun sh w => match w with
    | .bwait b v lm pd sd => endBwait die sh w b v pd sd (match lm with | some t => t ≤ s.chip.now | none => false)
    | _ => M.skip)

/-! ### Wait on address -/

/-- Package address of a virtual address through the fabric path's cache, if it is cached. DEDUCED, log entry 48. -/
def State.cachedPa (s : State) (d va : Nat) : Option Nat :=
  (tcFind ((s.chip.die d).tc (if 8 ≤ d || (s.chip.die d).inShadow then 3 else 2)) va).map fun e => e.pa + va % 2 ^ e.bits

/-- The memory address of a target's row at its home, as far as the die can tell at once. -/
def State.rowKey (s : State) (d : Nat) (t : Target) : Option Nat :=
  match t with
  | .wall h b r => some (wallAddr h b r)
  | .scratch h r => some (memAddr kScratch h (64 * r))
  | .virt base bits =>
    ((s.cachedPa d base).bind (s.pageLeaf d)).bind fun lv =>
      let va := virtRow base bits (fmtWidth (fld lv 36 4))
      (s.cachedPa d va).bind fun pa => ((s.chip.die d).regionOf pa).bind fun ho =>
        (s.pageLeaf d pa).map fun v =>
          memAddr (tierKind (fld v 0 2)) (fld v 2 4) (fld v 8 28 * 2 ^ 16 + rowBase (ho.2 % 2 ^ 16))
  | _ => none

/-- An armed monitor is on the row of a target whose BASE lies in the same page as the monitor's, which gives the width. -/
def Monitor.onRow (m : Monitor) (t : Target) : Bool :=
  m.armed && (match t, m.key with
    | .virt b n, .virt k _ => b / 2 ^ 16 == k / 2 ^ 16 && virtRow b n (fmtWidth m.fmt) == m.va
    | _, _ => false)

/-- The die's monitor for a row, if any (R265). -/
def State.monOf (s : State) (d : Nat) (t : Target) : Option Monitor :=
  let k := s.rowKey d t
  (s.chip.die d).monitors.find? fun m => m.key == t || (m.armed && some m.row == k) || m.onRow t

/-- Change, or free, a monitor of a die. -/
def modMon (d id : Nat) (f : Monitor → Monitor) : M :=
  modDie d fun x => { x with monitors := x.monitors.map fun m => if m.id = id then f m else m }
def freeMon (d id : Nat) : M := modDie d fun x => { x with monitors := x.monitors.filter fun m => m.id != id }

/-- The status of a WAITA lands, after its hold (R265). -/
def waitaEnd (d : Nat) (sh : Bool) (w : Wait) (sx pd status : Nat) : M :=
  M.all [endWait d sh w, landS d sh sx (BitVec.ofNat 64 status), landP d sh pd (status == 0)]

/-- What a held WAITA finds (R265): WRITTEN, ARMED, TIMEOUT, or it holds on. -/
def waitaStep (d : Nat) (sh : Bool) (w : Wait) (mon lim : Nat) (expired : Bool) (pd sx : Nat) : M :=
  M.look fun s =>
    match (s.chip.die d).monitors.find? fun m => m.id == mon with
    | none => M.skip
    | some m =>
      if !m.acked then M.skip
      else if m.triggered then M.seq (freeMon d mon) (waitaEnd d sh w sx pd 0)
      else if lim = 0 then waitaEnd d sh w sx pd 1
      else if expired then waitaEnd d sh w sx pd 2
      else M.skip

/-- WAITA (R265). -/
def execWaita (tl c sx pd : Nat) (s : State) : Host.Outcome State Fault Refusal :=
  let lim := fld (s.cx.rs sx).toNat 0 24
  let lm := limitOf s.chip.now lim
  let full : M := M.seq (laterS 1 sx 3) (laterP 1 pd false)
  let hold (mon : Nat) : M := M.seq (addWait (.waita mon lim lm (s.physPd pd) (s.physReg sx)))
    (M.iff (lim != 0) (schedLimit lm (.waitaTimeout s.cd)))
  finish s (withPlace ⟨tl, c, sx, 0, 0⟩ fun p =>
    match p with
    | .at t word =>
      let arm (id : Nat) : M := M.look fun u => issueAcc { blankAcc u.chip u.cd .arm t with word := word, a := BitVec.ofNat 64 id }
      match s.monOf s.cd t with
      | some m =>
        if m.triggered then M.all [freeMon s.cd m.id, laterS 1 sx 0, laterP 1 pd true]
        else if lim = 0 && m.acked then M.seq (laterS 1 sx 1) (laterP 1 pd false)
        else hold m.id
      | none =>
        let id := s.chip.nextId
        let next := M.mod fun c => { c with nextId := id + 1 }
        if 64 ≤ s.me.monitors.length then full
        else M.all [modMe fun x => { x with monitors := x.monitors ++ [{
            id, key := t, row := 0, home := 0, triggered := false, armed := false, acked := false, bundle := s.cx.pc, prog := s.cx.prog,
            site := x.site s.cx .y }] }, next, arm id, hold id]
    | _ => full)

/-- WAITA_TIMEOUT (R265): a trigger of the same cycle wins. -/
def execWaitaTimeout (die : Nat) (s : State) : Host.Outcome State Fault Refusal :=
  onDie die s (eachWait die fun sh w => match w with
    | .waita m lim lm pd sx => waitaStep die sh w m lim (match lm with | some t => t ≤ s.chip.now | none => false) pd sx
    | _ => M.skip)

/-- MONITOR_TRIGGER (R265): the notice of a write to its row reaches a monitor of the die; a freed one drops it (R266). -/
def execMonitorTrigger (die mon : Nat) (s : State) : Host.Outcome State Fault Refusal :=
  onDie die s (M.mod fun c => c.mapMons die fun m => if m.id = mon then { m with triggered := true } else m)

/-- MONCLR (R266): a row that only its home can tell is cleared through it. DEDUCED, log entry 123. -/
def execMonclr (a : YArgs) (s : State) : Host.Outcome State Fault Refusal :=
  finish s (
    if a.fn = 1 then later 1 (.monclr none)
    else withPlace a fun p => match p with
      | .at t _ => match s.monOf s.cd t with
        | some m => later 1 (.monclr (some m.id))
        | none => M.iff ((s.rowKey s.cd t).isNone && !s.me.monitors.isEmpty)
            (M.look fun u => issueAcc { blankAcc u.chip u.cd .arm t with fn := 1 })
      | _ => M.skip)

/-- A write performs at a row: notices go to the dies whose monitors are armed on it (R265). -/
def notify (home key : Nat) : M :=
  M.look fun s => M.each (List.range 12) fun d =>
    M.each ((s.chip.monsOf d).filter fun m => m.armed && m.row == key) fun m =>
      if home = d && key / 2 ^ 64 == kWall + 8 * d then schedIn 8 (.monitorTrigger d m.id) else schedLoaded 80 (.monitorTrigger d m.id)

/-! ### Count queues -/

/-- CQPUSH (R267, R44). -/
def execCqpush (q sx : Nat) (s : State) : Host.Outcome State Fault Refusal :=
  finish s (need (s.me.held q + s.me.pushes q < 64) .queueFull (later 1 (.push q (BitVec.ofNat 32 (s.cx.rs sx).toNat))))
/-- CQPOP (R267). -/
def execCqpop (q sx : Nat) (s : State) : Host.Outcome State Fault Refusal :=
  finish s (namedReq 2 (.pop (s.physReg sx) q) fun _ => M.skip)

end Sys2Proof.Machine
end

