-- ==== Sys2Proof/Machine/Migration.lean ====
section
/-!
DEFINITION. The placement directory's own steps (R317-R326) and Clove (R327-R335, R395): leaves, heat, the sweeper, migrations and
their aborts.
-/

namespace Sys2Proof.Machine

/-! ### Leaves (R319, R322) -/

/-- Write a 64-bit word of a tier. -/
def writeTierWord (kind d off : Nat) (v : BitVec 64) : M :=
  M.write ⟨memAddr kind d (rowBase off), wordBe (off % 64 / 8), wordRow (off % 64 / 8) v⟩

/-- Change the directory of a die. -/
def modDir (h : Nat) (f : Dir → Dir) : M := modDie h fun x => { x with dir := f x.dir }

/-- The buffered leaf at an address. -/
def Dir.leaf (x : Dir) (la : Nat) : Option Leaf := (x.buf.find? fun p => p.1 == la).map (·.2)
/-- Put a leaf in the buffer as the most recently used. -/
def Dir.put (x : Dir) (la : Nat) (l : Leaf) : Dir := { x with buf := (la, l) :: x.buf.filter fun p => p.1 != la }

/-- A value with some bits replaced. -/
def setFld (v : BitVec 64) (lo w n : Nat) : BitVec 64 :=
  BitVec.ofNat 64 (v.toNat - fld v.toNat lo w * 2 ^ lo + n % 2 ^ w * 2 ^ lo)

/-- Change a leaf, in the buffer and in memory together. -/
def modLeaf (h la : Nat) (f : BitVec 64 → BitVec 64) : M :=
  M.look fun s =>
    M.seq (writeTierWord (homeKind h) h la (f (s.tierWord (homeKind h) h la)))
      (modDir h fun x => match x.leaf la with
        | some l => { x with buf := x.buf.map fun p => if p.1 = la then (la, { l with val := f l.val }) else p }
        | none => x)

/-- A leaf with the heat fields of another value. -/
def withHeat (v heat : BitVec 64) : BitVec 64 := setFld (setFld v 42 2 (fld heat.toNat 42 2)) 44 2 (fld heat.toNat 44 2)
/-- Memory address of the row that holds a leaf. -/
def leafRow (h la : Nat) : Nat := memAddr (homeKind h) h (rowBase la)
/-- The heat fields of a leaf go back to memory (R322); a row out of service takes no write (R382). -/
def heatBack (h la : Nat) (v : BitVec 64) : M :=
  M.look fun s => M.iff (!s.chip.isDead (leafRow h la)) (writeTierWord (homeKind h) h la (withHeat (s.tierWord (homeKind h) h la) v))
/-- How long the pseudo-channel of a leaf takes no request (R379, R384). -/
def Chip.leafDelay (c : Chip) (h la : Nat) : Nat := c.rowDelay (leafRow h la)
/-- The row of a leaf that the walker does not buffer reads uncorrectably (R322, R350, R382). -/
def Chip.leafBad (c : Chip) (h la : Nat) : Bool :=
  ((c.die h).dir.leaf la).isNone && c.isBad (leafRow h la)

/-- HEAT_WRITEBACK (R322): 4,096 cycles after its last change the heat of a buffered leaf goes back to memory. -/
def execHeatWriteback (die leaf : Nat) (s : State) : Host.Outcome State Fault Refusal :=
  onDie die s (match (s.chip.die die).dir.leaf leaf with
    | some l =>
      M.iff (l.dirty && l.changed + 4096 ≤ s.chip.now)
        (if s.chip.leafDelay die leaf != 0 then schedIn (s.chip.leafDelay die leaf) (.heatWriteback die leaf)
         else M.seq (heatBack die leaf l.val)
          (modDir die fun x => let buf := x.buf.map fun p => if p.1 = leaf then (leaf, { l with dirty := false }) else p
                               { x with buf }))
    | none => M.skip)

/-- The leaf that a full buffer of 4,096 lets go: its oldest (R322). -/
def Dir.oldest (x : Dir) : Option (Nat × Leaf) := if 4096 ≤ x.buf.length then x.buf.getLast? else none
/-- How long the walker must wait for a leaf: it reads it from a pseudo-channel that takes no request, or writes the heat of another
back. -/
def Chip.leafWaits (c : Chip) (h la : Nat) : Nat :=
  let x := (c.die h).dir
  if (x.leaf la).isSome then 0
  else max (c.leafDelay h la) (match x.oldest with | some p => if p.2.dirty then c.leafDelay h p.1 else 0 | none => 0)
/-- Buffer a leaf read from memory, unless it is there (R322). -/
def bufferLeaf (h la : Nat) : M :=
  M.look fun s =>
    let x := (s.chip.die h).dir
    let v := s.tierWord (homeKind h) h la
    let l : Leaf := { val := v, changed := 0, dirty := false, rAt := none, wAt := none }
    let l := match x.swept with
      | some (t, a, old) => if t = s.chip.now && a = la then { l with vAt := some t, cyc := t, old, changed := t } else l
      | none => l
    M.iff (x.leaf la).isNone (M.seq
      (match x.oldest with
        | some p => M.iff p.2.dirty (heatBack h p.1 p.2.val)
        | none => M.skip)
      (modDir h fun y => { y with buf := (la, l) :: if x.oldest.isSome then y.buf.dropLast else y.buf }))

/-- An access raises the heat of a leaf (R324), which the walker buffers; raises of one field in one cycle count once, and one that
meets a sweeper's visit leaves the raised or the lowered value (R326). -/
def raiseHeat (h la : Nat) (rd wr : Bool) : M :=
  M.seq (bufferLeaf h la) (M.look fun s =>
    let c := s.chip
    match (c.die h).dir.leaf la with
    | none => M.skip
    | some l =>
      let old := if l.cyc = c.now then l.old else l.val
      let r := rd && l.rAt != some c.now
      let w := wr && l.wAt != some c.now
      let meet := l.vAt == some c.now
      let up (on : Bool) (k lo : Nat) (v : BitVec 64) : BitVec 64 :=
        if on && !(meet && Config.freeBit (c.free + k)) then setFld v lo 2 (Nat.min 3 (fld old.toNat lo 2 + 1)) else v
      let v := up w 1 44 (up r 0 42 l.val)
      let new := v != l.val
      M.all [modDir h fun x => x.put la { l with
          val := v, changed := if new then c.now else l.changed, dirty := l.dirty || new, rAt := if r then some c.now else l.rAt,
          wAt := if w then some c.now else l.wAt, cyc := c.now, old },
        M.iff new (sched (c.now + 4096) (.heatWriteback h la)), M.iff meet (M.seq tickFree tickFree)])

/-- A sweeper visit lowers each non-zero heat field (R325). -/
def lowerHeat (v : BitVec 64) : BitVec 64 :=
  setFld (setFld v 42 2 (fld v.toNat 42 2 - 1)) 44 2 (fld v.toNat 44 2 - 1)

/-- The next leaf the sweeper visits: its position and address (R325). -/
def Dir.sweepNext (x : Dir) (h : Nat) : Option (Nat × Nat) :=
  let at' (p : Nat) : Option (Nat × Nat) :=
    let e := (SMap.get 0 x.roots (p / 4096)).toNat
    if rootOk h e then some (p, fld e 15 43 * 2 ^ 15 + 8 * (p % 4096)) else none
  match at' x.sweepPos with
  | some r => some r
  | none =>
    let i := x.sweepPos / 4096
    (((List.range 4096).map fun k => (i + 1 + k) % 4096).filterMap fun j => at' (4096 * j)).head?

/-- The sweeper visits a leaf: each heat field is lowered, and a field raised in the same cycle is left raised or lowered (R326). -/
def visitLeaf (h la : Nat) : M :=
  M.look fun s =>
    let c := s.chip
    match (c.die h).dir.leaf la with
    | none => M.iff (!c.isBad (leafRow h la))
        (M.seq (modDir h fun y => { y with swept := some (c.now, la, s.tierWord (homeKind h) h la) }) (modLeaf h la lowerHeat))
    | some l =>
      let old := if l.cyc = c.now then l.old else l.val
      let down (t : Option Nat) (k lo : Nat) (v : BitVec 64) : BitVec 64 :=
        if t == some c.now && Config.freeBit (c.free + k) then v else setFld v lo 2 (fld old.toNat lo 2 - 1)
      let v := down l.wAt 1 44 (down l.rAt 0 42 l.val)
      let new := v != l.val
      M.all [modDir h fun y => y.put la { l with
          val := v, changed := if new then c.now else l.changed, dirty := l.dirty || new, vAt := some c.now, cyc := c.now, old },
        M.iff new (schedIn 4096 (.heatWriteback h la)), tickFree, tickFree]

/-- SWEEPER_VISIT (R325): one leaf every SWEEP cycles, while SWEEP is not 0. -/
def execSweeperVisit (die : Nat) (s : State) : Host.Outcome State Fault Refusal :=
  let x := (s.chip.die die).dir
  onDie die s (M.iff (x.sweep != 0) (match x.sweepNext die with
    | none => schedIn x.sweep.toNat (.sweeperVisit die)
    | some (p, la) =>
      if (x.leaf la).isNone && s.chip.leafDelay die la != 0 then schedIn (s.chip.leafDelay die la) (.sweeperVisit die)
      else M.all [schedIn x.sweep.toNat (.sweeperVisit die), modDir die fun y => { y with sweepPos := (p + 1) % 2 ^ 24 },
        visitLeaf die la]))

/-- Side logs that are not empty try to replay (R346). DEDUCED, log entry 57. -/
def replayLogs : M :=
  M.look fun s => M.each (List.range 12) fun d =>
    let x := s.chip.die d
    M.all [M.iff (!x.logF.isEmpty) (schedIn 0 (.sideLogReplay d 0)), M.iff (!x.logC.isEmpty) (schedIn 0 (.sideLogReplay d 1)),
      M.iff (!x.logG.isEmpty) (schedIn 0 (.sideLogReplay d 2))]

/-- A root entry as memory holds it. -/
def State.rootWord (s : State) (h i : Nat) : BitVec 64 := s.tierWord (homeKind h) h (0x8000 + 8 * i)

/-- SWEEP of a die as it is in force. -/
def Chip.sweepOf (c : Chip) (d : Nat) : Nat := (c.die d).dir.sweep.toNat
/-- SWEEP becomes `n` (R325): the next visit comes `n` cycles after the last one, or after the write when that is past or the sweeper
stood still; with 0 it stands still. -/
def resweep (d n : Nat) : M :=
  M.look fun s =>
    let c := s.chip
    let next := (c.events.find? fun e => e.2 == .sweeperVisit d).map (·.1)
    M.seq (M.mod fun c => { c with events := c.events.filter fun e => e.2 != .sweeperVisit d })
      (M.iff (n != 0) (sched (match next with | some t => max (c.now + 1) (t + n - c.sweepOf d) | none => c.now + n) (.sweeperVisit d)))

/-- The header of a directory takes effect (R317, R318): when EN becomes 1 the walker reads its root entries. -/
def readHeader (die : Nat) : M :=
  M.look fun s =>
    let w := (s.tierWord (homeKind die) die 0).toNat
    let en := bitOf w 0
    let roots := (List.range 4096).filterMap fun i => let r := s.rootWord die i; if r = 0 then none else some (i, r)
    M.all [
      M.iff (fld w 8 24 != s.chip.sweepOf die) (resweep die (fld w 8 24)),
      modDir die fun y => { y with en, sweep := BitVec.ofNat 24 (fld w 8 24), roots := if en && !y.en then roots else y.roots },
      replayLogs]
/-- DIRECTORY_HEADER_WRITE (R317, R318). -/
def execDirectoryHeaderWrite (die : Nat) (s : State) : Host.Outcome State Fault Refusal := onDie die s (readHeader die)

/-- DIRECTORY_ROOT_WRITE (R318): the walker reads the entry again. -/
def execDirectoryRootWrite (die index : Nat) (s : State) : Host.Outcome State Fault Refusal :=
  onDie die s (M.seq (modDir die fun y => { y with roots := SMap.set 0 y.roots index (s.rootWord die index) }) replayLogs)

/-! ### Migrations (R327-R335, R395) -/

/-- Change the migrations of a Clove. -/
def modMigs (f : Nat) (g : List Mig → List Mig) : M := modDie f fun x => { x with migs := g x.migs }
def modMig (f id : Nat) (g : Mig → Mig) : M := modMigs f fun l => l.map fun m => if m.id = id then g m else m
/-- A piece about a migration that is still in flight. -/
def withMig (f id : Nat) (k : Mig → M) : M :=
  M.look fun s => match (s.chip.die f).migs.find? fun m => m.id == id with | some m => k m | none => M.skip

/-- Memory address of a frame. -/
def frameAddr (tier d frame : Nat) : Nat := memAddr (tierKind tier) d (frame * 2 ^ 16)
def Mig.oldAddr (m : Mig) : Nat := frameAddr m.oldTier m.oldDie m.oldFrame
def Mig.newAddr (m : Mig) : Nat := frameAddr m.newTier m.newDie m.newFrame
/-- A memory address lies in a frame. -/
def inFrame (base key : Nat) : Bool := base ≤ key && key < base + 2 ^ 16

/-- A write that performs at the old frame of a page in motion sets the bit of its line (R328). -/
def markDirty (key : Nat) : M :=
  M.mod fun c => { c with dies := c.dies.map fun x =>
    let migs := x.migs.map fun m =>
      if m.state != .waiting && inFrame m.oldAddr key then { m with dirty := m.dirty ||| BitVec.ofNat 256 (2 ^ ((key - m.oldAddr) / 256)) }
      else m
    { x with migs } }

/-- The scheduler's write of STATUS into a region's control block (R281), by way of the walker: it raises heat (R324), sets the line
of a page in motion (R328), and waits for a frozen one (R330) and for a pseudo-channel in training or under repair (R379, R384). A row
that is out of service, or whose leaf reads uncorrectably, takes no write (R382). -/
def writeStatus (region : Nat) : M :=
  M.look fun s =>
    let c := s.chip
    match (c.die 8).regionOf (c.rtbase.toNat + 256 * region) with
    | none => M.skip
    | some (h, off) => match c.leafAt h off with
      | none => M.skip
      | some la =>
        let l := (s.leafVal h la).toNat
        let d := fld l 2 4
        let at' := fld l 8 28 * 2 ^ 16 + off % 2 ^ 16
        let k := tierKind (fld l 0 2)
        let row := memAddr k d (rowBase (at' + 24))
        let later (n : Nat) : M := M.mod fun c => { c with statusWait := c.statusWait.filter (·.1 != region) ++ [(region, c.now + n)] }
        if c.leafWaits h la != 0 then later (c.leafWaits h la)
        else if c.leafBad h la || !leafOk l then M.skip
        else if fld l 6 2 = 2 then later 0
        else if c.rowDelay row != 0 then later (c.rowDelay row)
        else if c.isDead row then raiseHeat h la false true
        else M.all [writeTierWord k d (at' + 24) (setFld (s.tierWord k d (at' + 24)) 32 4 (SMap.get 0 c.rstatus region)),
          markDirty row, raiseHeat h la false true]
/-- The STATUS writes whose time has come are made again; those to a page still frozen wait on. -/
def retryStatus : M :=
  M.look fun s =>
    let due := s.chip.statusWait.filter fun p => p.2 ≤ s.chip.now
    M.iff (!due.isEmpty) (M.seq (M.mod fun c => { c with statusWait := c.statusWait.filter fun p => c.now < p.2 })
      (M.each (due.map (·.1)) writeStatus))

/-- A monitor is armed on a row of the frame (R20, R327). -/
def Chip.watched (c : Chip) (frame : Nat) : Bool := (List.range 12).any fun d => (c.monsOf d).any fun m => m.armed && inFrame frame m.row

/-- The accesses that wait at the walker for a page are released one per cycle, in arrival order, from the next cycle on
(R331, R333, R395). -/
def releasePage (h page : Nat) : M :=
  M.look fun s =>
    let ids := (s.chip.die h).dir.waiting.filter fun i => match s.chip.acc i with
      | some a => a.off / 2 ^ 16 == page
      | none => false
    M.seq (modDir h fun x => { x with waiting := x.waiting.filter fun i => !ids.contains i })
      (M.each ((List.range ids.length).zip ids) fun p =>
        M.seq (modAcc p.2 fun a => { a with stage := .toWalker }) (schedIn (1 + p.1) (.walkerResolve p.2)))

/-- DETAIL of a MIGRATE-ABORT record (R334). -/
def abortDetail (f : Nat) (m : Mig) (reason : Nat) : Word :=
  let rounds := if reason = 4 || m.state = .frozen then m.round else m.round - 1
  BitVec.ofNat 64 (pack [(4, reason), (4, rounds), (9, popN m.dirty.toNat 256), (1, if m.state = .frozen then 1 else 0), (14, 0),
    (16, m.node), (4, f), (12, 0)])

/-- A MIGRATE node ends with a migration-abort record (R333, R334); `handled` is false when the region is contained.
DEDUCED, log entry 59. -/
def abortNode (f : Nat) (m : Mig) (reason : Nat) (leaf : BitVec 64) (handled : Bool) : M :=
    let row3 := rowOf fun k => if k = 0 then leaf else if k = 1 then m.word else if k = 2 then BitVec.ofNat 64 m.va else 0
    let t : Trap := {
      code := .migrateAbort, slot := .c, hdr := false, bundle := m.bundle, prog := m.prog, site := m.site, detail := abortDetail f m reason,
      row3, row4 := 0, cls := 'N', record := 0, ready := false, entry := none }
    M.all [modNode m.die m.node fun n => { n with fault := some .migrateAbort }, schedIn 0 (.nodeRetire m.die m.node), fwev 2,
      if handled then nodeTrap m.die t else writeRecordOf m.launch m.die t]

/-- An abort of a started migration (R333): the leaf is resident at the old frame, the waiting accesses are released, and the
new frame's contents are undefined. -/
def abortMig (f id reason : Nat) (handled : Bool) : M :=
  withMig f id fun m => M.all [
    M.iff (m.state != .waiting) (M.all [modLeaf m.h m.leaf fun v => setFld v 6 2 0, releasePage m.h m.page,
      M.each (List.range 1024) fun k => M.look fun s =>
        M.write ⟨m.newAddr + 64 * k, allBytes, Config.freeRow s.chip.free (m.newAddr + 64 * k)⟩, tickFree]),
    modMigs f fun l => l.filter fun x => x.id != id, retryStatus,
    M.look fun s => abortNode f m reason (s.leafVal m.h m.leaf) handled]

/-- Destination fields of a MIGRATE's word (R303). -/
def destOk (w : Nat) : Bool :=
  fld w 0 2 != 3 && dieMatches (fld w 0 2) (fld w 8 4) && frameOk (fld w 0 2) (fld w 8 4) (fld w 16 48)

/-- The page a MIGRATE node names: its directory die, its number there, and the leaf's address, where it has one. -/
def Node.page (n : Node) (c : Chip) : Nat × Nat × Option Nat :=
  let h := n.counts.headD 0
  let p := n.counts.getD 1 0
  (h, p, if n.counts.isEmpty then none else c.leafAt h (p * 2 ^ 16))
/-- The leaf's value; 0 where there is none. -/
def State.pageVal (s : State) (n : Node) : BitVec 64 :=
  match (n.page s.chip).2.2 with | some la => s.leafVal (n.page s.chip).1 la | none => 0
/-- The migration that a MIGRATE node of a die asks for. -/
def migOf (s : State) (die : Nat) (n : Node) : Mig :=
  let c := s.chip
  let p := n.page c
  let v := (s.pageVal n).toNat
  let w := n.word1.toNat
  { id := c.nextId, die, node := n.id, h := p.1, page := p.2.1, leaf := p.2.2.getD 0, oldDie := fld v 2 4, oldTier := fld v 0 2,
    oldFrame := fld v 8 28, newDie := fld w 8 4, newTier := fld w 0 2, newFrame := fld w 16 48, va := n.va, word := n.word1,
    state := .waiting, copying := 0, dirty := 0, began := 0, first := 0, left := 0, reads := 0, batches := [], retries := [],
    round := 0, froze := 0, launch := (c.die die).launch, bundle := n.bundle, prog := n.prog, site := n.site }

/-- MG message: a MIGRATE node passes to Clove, which makes its launch checks (R303, R327). A node that finds 64 migrations in flight
waits without launching; a launched one may still wait for an earlier migration of its page. -/
def cloveTake (die node : Nat) : M :=
  M.look fun s => withNode die node fun n =>
    let c := s.chip
    let m := migOf s die n
    let f := 8 + m.h % 4
    let v := s.pageVal n
    let later := schedIn 1 (.msgMg (.clove die node))
    let usable := (n.page c).2.2.isSome && leafOk v.toNat
    if n.fault.isSome then M.skip
    else if n.state == .waiting && 64 ≤ c.cloveHeld f then later
    else M.seq (M.iff (n.state == .waiting) (modNode die node fun x => { x with state := .launched, launchAt := c.now })) (
      if usable && (fld v.toNat 6 2 != 0 || (c.die f).migs.any fun x => x.h == m.h && x.page == m.page) then later
      else if !destOk n.word1.toNat then abortNode f m 1 v true
      else if !usable then abortNode f m 2 v true
      else if m.newAddr == m.oldAddr then schedIn 0 (.nodeRetire die node)
      else if c.watched m.oldAddr then abortNode f m 6 v true
      else M.all [M.mod fun c => { c with nextId := c.nextId + 1 }, modMigs f fun l => l ++ [m],
        M.look fun t => withNode die node fun x => sched (Nat.max (t.chip.now + 1) (x.launchAt + 59)) (.cloveStart f m.id)])

/-- The launched MIGRATE nodes of a launch that no Clove has taken up yet abort with REGION-FAULT (R333, R348). -/
def abortOnWay (launch : Nat) : M :=
  M.look fun s => M.each ((List.range 12).filter fun d => (s.chip.die d).launch == some launch) fun d =>
    M.each ((s.chip.die d).copy.live.filter (s.chip.onWay d)) fun n => M.look fun t =>
      abortNode (n.clove.getD 8) (migOf t d n) 7 (t.pageVal n) false

/-- Rows of the house copy engine's write figure to the far or the expansion tier, counted from the far die of the Clove (R239): its own
CXL devices answer as they do. -/
def cloveFigure (c : Chip) (f : Nat) (m : Mig) : Nat :=
  if m.newDie = f then (if m.newTier = 2 then Config.deviceDelay c.free else 160) else 300 + 48 * (c.hop f m.newDie - 1)
/-- Something else may load the paths of a migration: another migration, or an access in flight that is not to its page (R395).
DEDUCED, log entry 151. -/
def Chip.loadedBeside (c : Chip) (m : Mig) : Bool :=
  ((c.dies.map (·.migs)).flatten.any fun x => x.id != m.id && x.state != .waiting) ||
    c.accs.any fun a => !a.settled && a.stage != .logged && !inFrame m.oldAddr a.key

/-- The event that follows a copy: the end of its round, or the commit after the final one (R329, R330). -/
def Mig.next (f : Nat) (m : Mig) : Instr := if m.state = .frozen then .migrationCommit f m.id else .migrationRoundEnd f m.id

/-- A copy begins (R329, R395): the dirty lines are taken. Rows to the near tier wait for places in the calendar (R371); those to the
other tiers are written 16 per cycle. -/
def beginRound (f id : Nat) (lines : BitVec 256) : M :=
  M.look fun s => withMig f id fun m =>
    let c := s.chip
    let rows := 4 * popN lines.toNat 256
    let first := c.now + 540 + if c.loadedBeside m then Config.extra c.free else 0
    let batches := if m.newTier = 0 then [] else (List.range ((rows + 15) / 16)).map fun i =>
      (first + cloveFigure c f m + i, 16 * i, min 16 (rows - 16 * i))
    M.all [modMig f id fun x => { x with
        copying := lines, dirty := 0, began := c.now, first, left := if m.newTier = 0 then rows else 0,
        reads := if m.oldTier = 0 then x.reads + rows else 0, batches, retries := [] },
      M.iff (rows == 0) (sched (c.now + 1) (m.next f)), tickFree]

/-- The rows of the lines a round copies, in line order. -/
def Mig.rows (m : Mig) : List Nat := (List.range 1024).filter fun r => m.copying.getLsbD (r / 4)

/-- Rows on their way whose index `p` picks perform `n` cycles later; those that perform in cycle `now` do. -/
def Mig.delayRows (m : Mig) (now : Nat) (p : Nat → Bool) (n : Nat) : Mig :=
  let ks (b : Nat × Nat × Nat) : List Nat := (List.range b.2.2).map (b.2.1 + ·)
  { m with batches := (m.batches.map fun b =>
      if now < b.1 && (ks b).any p then (ks b).map fun k => (if p k then b.1 + n else b.1, k, 1) else [b]).flatten }
/-- Memory addresses of a row of a round in the old and in the new frame. -/
def Mig.oldRow (m : Mig) (k : Nat) : Nat := m.oldAddr + 64 * m.rows.getD k 0
def Mig.newRow (m : Mig) (k : Nat) : Nat := m.newAddr + 64 * m.rows.getD k 0
/-- The migration with a batch of rows that perform in cycle `t` from index `i` on; those of a pseudo-channel under a live repair perform
1,024 cycles later (R384). -/
def Mig.ride (m : Mig) (c : Chip) (t i n : Nat) : Mig :=
  let fresh := { m with batches := [(t, i, n)] }.delayRows c.now (fun k => c.pausing (m.oldRow k) || c.pausing (m.newRow k)) 1024
  { m with batches := m.batches ++ fresh.batches }

/-- The migrations of all Cloves in the order in which the rows of their rounds came, by `key`. -/
def Chip.migsBy (c : Chip) (key : Mig → Nat) (p : Mig → Bool) : List (Nat × Mig) :=
  let put (l : List (Nat × Mig)) (x : Nat × Mig) : List (Nat × Mig) :=
    (l.takeWhile fun y => key y.2 ≤ key x.2) ++ x :: l.dropWhile fun y => key y.2 ≤ key x.2
  (((List.range 12).map fun f => ((c.die f).migs.filter p).map fun m => (f, m)).flatten).foldl put []

/-- Places that a position which starts now still has on a stack of die `e`. -/
def Chip.cloveRoomAt (c : Chip) (st level : Nat) : Nat := sharedCap level - calUsed c.sharedCal c.now st
/-- Rows of a Clove take places of the position that starts now. -/
def takeRides (f st n : Nat) : M :=
  M.look fun s => modDie f fun x =>
    { x with calendar := (s.chip.now, st, n) :: (x.calendar.filter fun p => s.chip.now ≤ p.1 + 4096) }

/-- Rows of a Clove that ask for places of a stack: the cycle in which they came, Clove's far die, the migration, and whether they are to
be written. -/
structure Claim where
  came : Nat
  clove : Nat
  mig : Mig
  write : Bool
/-- Claims by the cycle in which their rows came. -/
def byCame (x : Claim) : List Claim → List Claim
  | [] => [x]
  | y :: l => if y.came ≤ x.came then y :: byCame x l else x :: y :: l
/-- What the Cloves ask of stack `st` in the present cycle, in order of arrival (R371); a row from a near frame is written once its read
has had its place. -/
def Chip.claims (c : Chip) (st : Nat) : List Claim :=
  let ms := ((List.range 12).map fun f => (c.die f).migs.map fun m => (f, m)).flatten
  let writes := (ms.filter fun p => p.2.newTier == 0 && stackNo p.2.newDie (p.2.newFrame * 2 ^ 16) == st && p.2.left != 0 &&
    p.2.first ≤ c.now).map fun p => (⟨p.2.first, p.1, p.2, true⟩ : Claim)
  let reads := (ms.filter fun p => p.2.oldTier == 0 && stackNo p.2.oldDie (p.2.oldFrame * 2 ^ 16) == st && p.2.reads != 0 &&
    p.2.began ≤ c.now).map fun p => (⟨p.2.began, p.1, p.2, false⟩ : Claim)
  (writes ++ reads).foldl (fun l x => byCame x l) []

/-- The shared position of a stack starts (R371, R395): rows of the Cloves, to be written or to be read from a near frame, take its places
in the order in which they came. DEDUCED, log entry 126. -/
def cloveSeats (e k : Nat) : M :=
  M.look fun s =>
    let level := ((s.chip.die e).stack k).level
    let st := 2 * e + k
    let now := s.chip.now
    M.each (s.chip.claims st) fun p => M.look fun t =>
      let n := min (if p.write then p.mig.left - p.mig.reads else p.mig.reads) (t.chip.cloveRoomAt st level)
      M.iff (n != 0) (M.seq (takeRides p.clove st n) (modMig p.clove p.mig.id fun m =>
        if p.write then { m.ride t.chip (now + 230) (m.rows.length - m.left) n with left := m.left - n }
        else { m with reads := m.reads - n }))

/-- A row of a round performs in the new frame; it waits for a pseudo-channel in training or under repair (R379, R384), and an
uncorrectable row or a new frame that takes no write aborts (R333). DEDUCED, log entry 52. -/
def cloveRow (f id k : Nat) : M :=
  M.look fun s => withMig f id fun m =>
    let old := m.oldRow k
    let new := m.newRow k
    let wait := max (s.chip.rowDelay old) (s.chip.rowDelay new)
    if wait != 0 then modMig f id fun x => { x with batches := x.batches ++ [(s.chip.now + wait, k, 1)] }
    else if s.chip.isBad old then abortMig f id 9 true
    else if s.chip.isDead new then abortMig f id 3 true
    else M.seq (M.write ⟨new, allBytes, s.mem.row old⟩) (M.mod fun c => { c with bad := c.bad.filter (· != new) })

/-- What the Cloves do in a package cycle (R329, R371, R395): rows take their places and perform, and with the last one the copy ends,
its next event a cycle later. -/
def cloveTick : M :=
  M.look fun s =>
    let now := s.chip.now
    let start (e k : Nat) : Bool := now % 128 == 2 * sharedPos e ((s.chip.die e).stack k).level
    M.iff (s.chip.cattrip.isNone && s.chip.dies.any fun x => !x.migs.isEmpty) (M.seq
      (M.each (List.range 8) fun e => M.each [0, 1] fun k => M.iff (start e k) (cloveSeats e k))
      (M.look fun t => M.each (t.chip.migsBy (·.first) fun m => m.batches.any fun b => b.1 ≤ now) fun p =>
        M.all [modMig p.1 p.2.id fun m => { m with batches := m.batches.filter fun b => now < b.1 },
          M.each ((p.2.batches.filter fun b => b.1 ≤ now).map fun b => (List.range b.2.2).map (b.2.1 + ·)).flatten (cloveRow p.1 p.2.id),
          withMig p.1 p.2.id fun m => M.iff (m.left == 0 && m.batches.isEmpty) (sched (now + 1) (m.next p.1))]))

/-- CLOVE_START (R327, R328): the leaf is in motion, and round 0 copies the whole page; a monitor armed since aborts. -/
def execCloveStart (die migration : Nat) (s : State) : Host.Outcome State Fault Refusal :=
  onDie die s (withMig die migration fun m =>
    if s.chip.watched m.oldAddr then abortMig die migration 6 true
    else M.all [modLeaf m.h m.leaf fun v => setFld v 6 2 1, modMig die migration fun x => { x with state := .moving },
      beginRound die migration (BitVec.allOnes 256)])

/-- MIGRATION_ROUND_END (R329, R330): the next round, the freeze or an abort, in the cycle after the last write. -/
def execMigrationRoundEnd (die migration : Nat) (s : State) : Host.Outcome State Fault Refusal :=
  onDie die s (withMig die migration fun m =>
    if popN m.dirty.toNat 256 ≤ 4 then M.all [modLeaf m.h m.leaf fun v => setFld v 6 2 2,
      modMig die migration fun x => { x with state := .frozen, froze := s.chip.now },
      schedIn 3600 (.freezeTimeout die migration), schedIn 0 (.freezeFinalCopy die migration)]
    else if m.round = 8 then abortMig die migration 4 true
    else M.seq (modMig die migration fun x => { x with round := x.round + 1 })
      (beginRound die migration m.dirty))

/-- FREEZE_FINAL_COPY (R330): once every access forwarded to the old frame has performed, the dirty lines are copied. -/
def execFreezeFinalCopy (die migration : Nat) (s : State) : Host.Outcome State Fault Refusal :=
  onDie die s (withMig die migration fun m =>
    if s.chip.accs.any fun a => a.stage == .forwarded && inFrame m.oldAddr a.key && a.target.isVirt then
      schedIn 1 (.freezeFinalCopy die migration)
    else beginRound die migration m.dirty)

/-- MIGRATION_COMMIT (R331). -/
def execMigrationCommit (die migration : Nat) (s : State) : Host.Outcome State Fault Refusal :=
  onDie die s (withMig die migration fun m => M.all [
    modLeaf m.h m.leaf fun v =>
      setFld (setFld (setFld (setFld (setFld v 0 2 m.newTier) 2 4 m.newDie) 6 2 0) 8 28 m.newFrame) 42 4 0,
    modMigs die fun l => l.filter fun x => x.id != migration, releasePage m.h m.page, retryStatus,
    schedIn 0 (.nodeRetire m.die m.node)])

/-- FREEZE_TIMEOUT (R330). -/
def execFreezeTimeout (die migration : Nat) (s : State) : Host.Outcome State Fault Refusal :=
  onDie die s (withMig die migration fun m =>
    M.iff (m.state == .frozen && m.froze + 3600 ≤ s.chip.now) (abortMig die migration 5 true))

/-- The migrations whose page covers a leaf or a frame, as (Clove's far die, migration). -/
def Chip.migsWhere (c : Chip) (p : Mig → Bool) : List (Nat × Nat) :=
  ((List.range 12).map fun f => ((c.die f).migs.filter p).map fun m => (f, m.id)).flatten

/-- A migration, started or waiting to start, holds back an MMST to the frames of a page, and a PLWRITE to its leaf (R301, R302,
R335). -/
def Chip.moving (c : Chip) (p : Mig → Bool) : Bool := c.dies.any fun x => x.migs.any p

end Sys2Proof.Machine
end

