-- ==== Sys2Proof/Machine/Faults.lean ====
section
/-!
DEFINITION. Faults (R336-R353): side logs and their replay, the shadow handler's entry, containment, uncorrectable rows and the
reset of a die.
-/

namespace Sys2Proof.Machine

/-! ### Side logs (R251, R345, R346) -/

/-- The unit whose side log an access belongs to: 0 fabric, 1 copy, 2 gather (R304, R345). -/
def Acc.unit (a : Acc) : Nat := if a.path = 4 then 1 else if a.path = 5 then 2 else 0
def Die.log (x : Die) (u : Nat) : List LogEntry := match u with | 0 => x.logF | 1 => x.logC | _ => x.logG
def Die.setLog (x : Die) (u : Nat) (l : List LogEntry) : Die :=
  match u with | 0 => { x with logF := l } | 1 => { x with logC := l } | _ => { x with logG := l }
/-- Writes that wait outside a log enter it as far as it has room (R251). -/
def Die.topUp (x : Die) (u : Nat) : Die :=
  let ins := ((x.logOut.filter fun p => p.1 == u).map (·.2)).take (128 - (x.log u).length)
  if ins.isEmpty then x
  else { x.setLog u (x.log u ++ ins) with logOut := x.logOut.filter fun p => !(p.1 == u && ins.contains p.2) }
def modLog (d u : Nat) (f : List LogEntry → List LogEntry) : M := modDie d fun x => (x.setLog u (f (x.log u))).topUp u

/-- KIND of a logged write (R345). -/
def Acc.logKind (a : Acc) : Nat :=
  match a.kind with
  | .stWord => 1 | .stRow => 2 | .red => 3 | .atom => 4 | .scst => 5 | .scrmw => 6 | .send => 7 | .osend => 8 | .plwrite => 9
  | .mmst | .mmstRow => 10
  | _ => if a.path = 5 then 12 else 11

/-- The data and byte enables of a write: a word form's word, a node's nibbles over the old row, or the row.
DESIGN CHOICE, log entry 127. -/
def Acc.store (a : Acc) (old : Row) : Row × BitVec 64 :=
  match a.kind with
  | .stWord | .scst | .mmst | .cword | .atom | .scrmw | .plwrite => (wordRow a.word a.a, wordBe a.word)
  | .nodeWrite =>
    let m := a.a.toNat + 2 ^ 64 * a.b.toNat
    (BitVec.ofNat 512 (digits 4 (fun k => fld (if bitOf m k then a.data.toNat else old.toNat) (4 * k) 4) 128), a.be)
  | _ => (a.data, a.be)

/-- The control row of an entry (R345). -/
def controlRow (a : Acc) (e : LogEntry) : Row :=
  BitVec.ofNat 512 (pack [(64, if a.target.isVirt then a.va else 0), (4, e.kind), (3, a.fn), (1, e.disc.toNat), (4, a.home.getD 0),
    (8, a.inc.toNat), (16, if a.kind.isNode then (a.node.map (·.1)).getD 0 else 0), (28, 0), (64, (a.store 0).2.toNat), (16, e.code.num),
    (304, 0)])

/-- A write that meets a fault enters its unit's side log, or, being replayed, stays there; one that finds 128 entries waits outside, and
its die holds until one frees (R251). DEDUCED, log entry 159. -/
def logWrite (a : Acc) (code : Code) (disc : Bool) : M :=
  M.look fun s =>
    let u := a.unit
    let l := (s.chip.die a.die).log u
    let e : LogEntry := ⟨a.id, a.logKind, disc, code, progressRow (s.chip.die a.die)⟩
    M.all [modAcc a.id fun x => { x with stage := .logged, code },
      if l.any fun x => x.acc == a.id then modLog a.die u fun l => l.map fun x => if x.acc = a.id then e else x
      else if l.length < 128 then modLog a.die u fun l => l ++ [e]
      else modDie a.die fun x =>
        let hold (y : Ctx) : Ctx := { y with waits := y.waits ++ [.sideLog u] }
        { (if a.sh then { x with shadow := hold x.shadow } else { x with main := hold x.main }) with logOut := x.logOut ++ [(u, e)] },
      M.iff disc (schedIn 0 (.sideLogReplay a.die u))]

/-- DETAIL of a record of an access (R338). -/
def accDetail (a : Acc) (code : Code) : Word := if codeHasVa code then BitVec.ofNat 64 a.va else 0

/-- Row 3 of an access's PAGE-FAULT or TARGET-LOST (R341). -/
def accRow3 (c : Chip) (a : Acc) (code : Code) : Row :=
  match code with
  | .pageFault => BitVec.ofNat 512 a.cause
  | .targetLost =>
    let t := (a.home.orElse fun _ => if a.target.isVirt then some a.dirDie else a.knownHome).getD 0
    BitVec.ofNat 512 (pack [(4, t), (4, 0), (8, a.inc.toNat), (8, (c.die t).inc.toNat)])
  | _ => 0

/-- A write of a copy node is over, and the node may retire. -/
def nodeDone (a : Acc) : M :=
  match a.node with
  | some (n, k) => if a.kind.isNode then nodeWrote a.die n k else M.skip
  | none => M.skip
/-- The write is over: performed, or discarded (R103, R346). -/
def settleWrite (a : Acc) : M := M.seq (dropAcc a.id) (nodeDone a)

/-- SIDE_LOG_REPLAY (R346): a discarded head is removed and its record written; any other head is tried again. Entries of a log
never overtake one another: the next is tried when the head has performed. -/
def execSideLogReplay (die unit : Nat) (s : State) : Host.Outcome State Fault Refusal :=
  onDie die s (match (s.chip.die die).log unit with
    | [] => M.skip
    | e :: rest =>
      let next : M := M.seq (modLog die unit fun l => l.drop 1) (M.iff (!rest.isEmpty) (schedIn 0 (.sideLogReplay die unit)))
      match s.chip.acc e.acc with
      | none => next
      | some a =>
        if e.disc then
          let t := { a.trap e.code 'W' (accDetail a e.code) (controlRow a e) (a.store 0).1 with row2 := some e.row2 }
          M.all [writeRecordOf a.launch die t, settleWrite a, next]
        else M.iff (a.stage == .logged) (M.seq (modAcc a.id fun x => { x with stage := .start }) (beginAcc a)))

/-- A logged write has performed: it leaves the log, and the next is tried (R346). -/
def unlog (a : Acc) : M :=
  M.look fun s => M.iff (((s.chip.die a.die).log a.unit).any fun e => e.acc == a.id)
    (M.seq (modLog a.die a.unit fun l => l.filter fun e => e.acc != a.id) (schedIn 0 (.sideLogReplay a.die a.unit)))

/-! ### The shadow handler (R342, R343) -/

/-- The effective ISKIP of what runs on a die (R281). DEDUCED, log entry 143. -/
def Chip.skips (c : Chip) (d : Nat) : Bool := (c.die d).terms.iskip

/-- The handler of fault `t` begins at TVEC (R342, R343). -/
def enterShadow (d : Nat) (t : Trap) : M :=
  modDie d fun x => { x with
    inShadow := true, tcause := BitVec.ofNat 16 t.code.num, faultrec := t.addr.getD x.faultrec,
    shadow := { x.shadow with pc := x.tvec.toNat, nextIssue := x.shadow.prog, loops := [], block := none, rotb := 0 } }

/-- SHADOW_ENTRY (R272, R343): the record of a fault has performed; with ISKIP a fault at issue is passed, else the handler runs from
TVEC. A fault of class N is served when no other is. -/
def execShadowEntry (die : Nat) (s : State) : Host.Outcome State Fault Refusal :=
  let x := s.chip.die die
  onDie die s (
    if x.inShadow then M.skip
    else match x.trap with
    | some t =>
      if !t.ready || t.cls == 'F' || t.cls == 'T' then M.skip
      else if s.chip.skips die && (t.cls == 'I' || t.cls == 'U') then returnFrom die
      else enterShadow die t
    | none => match x.trapQ.find? (·.ready) with
      | none => M.skip
      | some t => M.seq (modDie die fun y => { y with trap := some t, trapQ := y.trapQ.erase t }) (enterShadow die t))

/-! ### Containment (R348, R349) -/

/-- The scheduler's write of STATUS into a control block, and the part's own copy (R281). -/
def setStatus (region v : Nat) : M :=
  M.seq (M.mod fun c => { c with rstatus := SMap.set 0 c.rstatus region v }) (writeStatus region)

/-- The dies on which a launch has a party or a house program. -/
def Launch.dies (l : Launch) : List Nat := (l.parties ++ l.houses).map (·.1)

/-- An access that goes on when its launch is contained: a write that has left the die, one in a side log, or a report of a fault. -/
def Acc.survives (a : Acc) (logged : List Nat) : Bool :=
  a.kind == .record || a.kind == .cword || logged.contains a.id || (a.stage == .forwarded && a.entry.isNone)
/-- The request has left for its walker or its home, or has performed there. -/
def Acc.sent (a : Acc) : Bool := a.stage == .toWalker || a.stage == .atWalker || a.stage == .forwarded || a.stage == .performed
/-- Entries of the side logs of a die, with those that wait outside. -/
def Die.logAll (x : Die) : List LogEntry := x.logF ++ x.logC ++ x.logG ++ x.logOut.map (·.2)

/-- The accesses of launch `l` are dropped, on whichever die they were made, and its logged writes are to be discarded with records (R348).
A request that has left lands nothing, and is no longer the launch's. DEDUCED, log entry 55. -/
def dropLaunch (l : Nat) : M :=
  M.mod fun c =>
    let logged := ((c.dies.map Die.logAll).flatten).map (·.acc)
    let mine (e : LogEntry) : Bool := c.accs.any fun a => a.id == e.acc && a.launch == some l
    let mark (e : LogEntry) : LogEntry := if mine e then { e with disc := true } else e
    { c with
      accs := c.accs.filterMap fun a =>
        if a.launch != some l || a.survives logged then some a
        else if a.sent then some { a with launch := none } else none
      dies := c.dies.map fun x => { x with
        logF := x.logF.map mark, logC := x.logC.map mark, logG := x.logG.map mark, logOut := x.logOut.map fun p => (p.1, mark p.2) } }

/-- A party stops (R348): holds, landing requests, monitors and nodes go. DEDUCED, log entry 55. -/
def stopDie (d : Nat) : M :=
    modDie d fun x => { x with
      run := .contained, trap := none, trapQ := [], inShadow := false, tcause := 0, entries := [], monitors := [],
      fences := [], staging := [], sent := [], recvd := [], comm := false, solver := none,
      copy := {}, main := { x.main with pend := [], wpend := [], ptimed := [], waits := x.main.waits.filter Wait.isGovernor },
      shadow := { x.shadow with pend := [], wpend := [], ptimed := [], waits := x.shadow.waits.filter Wait.isGovernor },
      matrix := { x.matrix with follow := [] }, mace := { x.mace with jobs := [] } }

/-- The code of a launch that ends before it has begun has not been copied (R290). -/
def forgetCode (l : Launch) : M :=
  M.iff (l.path == 3) (M.mod fun c => { c with loaded := c.loaded.filter fun p => !(p.1 == l.region && l.stale.contains p.2) })

/-- Contain one launch (R348). -/
def containLaunch (l : Launch) : M :=
  M.look fun s =>
    let ds := l.dies.filter fun d => (s.chip.die d).launch == some l.id
    M.all [M.each (s.chip.migsWhere fun m => m.launch == some l.id) fun p => abortMig p.1 p.2 7 false,
      abortOnWay l.id, dropLaunch l.id, M.each ds stopDie, forgetCode l,
      modLaunch l.id fun k => { k with status := 8, endedDies := k.dies, saved := [] },
      setStatus l.region 4, replayLogs, fwev 1, schedIn 0 (.completionWord l.id)]

/-- A fault domain is made fatal (R348): every launch of the domain is contained. DEDUCED, log entry 56. -/
def contain (domain : Nat) : M :=
  M.look fun s => M.each (s.chip.launches.filter fun l => (s.chip.holds l).fdom == domain && l.state != .ended && l.status != 8)
    containLaunch

/-- HOLD_TIMEOUT (R348, R353): the hold has lasted FBT, or another fatal fault of the die; its record is written, but for a
DOUBLE-FAULT of a record (R338) and a fault that TRAP 0 makes fatal, which has one, and the domain is contained. -/
def execHoldTimeout (die : Nat) (s : State) : Host.Outcome State Fault Refusal :=
  let x := s.chip.die die
  let t : Trap := (x.trap.filter fun t => t.cls != 'I' && t.cls != 'L' && t.cls != 'N' && t.cls != 'U').getD
    (x.trapAt .holdTimeout 'F' .s0)
  let due := t.code != .holdTimeout || x.terms.fbt < x.heldFor
  onDie die s (match s.chip.launchOf die with
    | none => M.skip
    | some l => M.iff due (M.seq (M.iff (t.cls == 'F') (writeRecord die t)) (contain (s.chip.holds l).fdom)))

/-- UNCORRECTABLE at the consumer of an access (R350): SOURCE and the device-physical address of the row, in the fault domain of the
access's launch; in a shadow run, of what its handler accessed, DOUBLE-FAULT (R342). -/
def uncorrectable (a : Acc) : M :=
  M.look fun s =>
    let t := a.trap .uncorrectable 'F' (BitVec.ofNat 64 a.va) (uncRow3 a.key) 0
    if a.sh && (s.chip.die a.die).inShadow then takeTrap a.die t
    else if (s.chip.die a.die).launch == a.launch then fatal a.die t
    else match s.chip.launches.find? fun l => some l.id == a.launch with
      | none => M.skip
      | some l => M.seq (writeRecordOf a.launch a.die t) (contain (s.chip.holds l).fdom)

/-! ### Reset of a die (R351, R352) -/

/-- An invalidation is acknowledged by a die (R311, R312); with the last acknowledgement it is complete. -/
def ackInval (id d : Nat) : M :=
  M.mod fun c =>
    let invals := c.invals.map fun v => if v.id = id then { v with left := v.left.filter (· != d) } else v
    { c with invals := invals.filter fun v => !v.left.isEmpty }

/-- SEM is freed (R280, R305). -/
def freeSem (who : Nat) : M :=
  M.look fun s => M.iff (s.chip.semOwner == who && who != 0) (M.seq (M.mod fun c => { c with semOwner := 0 }) (fwev 5))

/-- Requests outstanding to a die whose incarnation changes get TARGET-LOST at once (R352). -/
def loseTargets (d : Nat) : M :=
  M.look fun s => M.each (s.chip.accs.filter fun a =>
      (a.stage == .forwarded && a.home == some d) || (a.stage == .toWalker && a.dirDie == d) || (a.stage == .atWalker && a.dirDie == d))
    fun a => accFail a.id .targetLost 0

/-- The shadow handler serves a WAITA whose arm cannot be made (R251, R265); in a shadow run that is DOUBLE-FAULT (R342). -/
def armTrap (a : Acc) (code : Code) : M :=
  M.look fun s =>
    let t := { a.trap code 'L' (accDetail a code) (accRow3 s.chip a code) 0 with slot := .y, entry := some a.id }
    if a.sh then takeTrap a.die t else nodeTrap a.die t

/-- A WAITA whose monitor was armed at a lost home faults TARGET-LOST; served, it arms again (R265, R351). -/
def loseMonitor (k : Nat) (m : Monitor) : M :=
  M.look fun s =>
    let x := s.chip.die k
    let waits (y : Ctx) : Bool := y.waits.any fun w => match w with | .waita i _ _ _ _ => i == m.id | _ => false
    if waits x.main || waits x.shadow then
      let a := { blankAcc s.chip k .arm m.key with
        a := BitVec.ofNat 64 m.id, stage := .failed, code := .targetLost, home := some m.home, sh := waits x.shadow,
        va := m.va, inc := m.inc, bundle := m.bundle, prog := m.prog, site := m.site }
      M.all [modMon k m.id fun y => { y with armed := false, acked := false, triggered := false },
        M.mod fun c => { c with accs := c.accs ++ [a], nextId := max c.nextId (a.id + 1) },
        armTrap a .targetLost]
    else freeMon k m.id

/-- A RECV whose source is reset before its row arrives faults TARGET-LOST at its named cycle (R263). -/
def loseRecvs (d : Nat) : M :=
  M.mod fun c => { c with dies := c.dies.map fun x =>
    let entries := x.entries.map fun e => match e.what with
      | .recv _ _ src _ => if src = d && !e.arrived then { e with fault := some .targetLost } else e
      | _ => e
    { x with entries } }

/-- A write that waits in a side log is discarded with TARGET-LOST, at the head of its log, when its target is reset (R353). -/
def loseLogged (d : Nat) : M :=
  M.mod fun c =>
    let hit (e : LogEntry) : Bool := c.accs.any fun a => a.id == e.acc && (match a.target with
      | .virt _ _ => a.home == some d || (a.cause == 5 && a.dirDie == d)
      | .wall k _ _ => k == d
      | .scratch k _ => k == d
      | .phys k _ _ => k == d
      | .beyond => a.home == some d)
    { c with dies := c.dies.map fun x =>
        let mark (e : LogEntry) : LogEntry :=
          if !e.disc && hit e then { e with disc := true, code := .targetLost, row2 := progressRow x } else e
        { x with
        logF := x.logF.map mark, logC := x.logC.map mark, logG := x.logG.map mark, logOut := x.logOut.map fun p => (p.1, mark p.2) } }

/-- A house program on a die that is reset is over, and its launch goes on (R351 makes fatal a launch with a party there).
DESIGN CHOICE, log entry 128. -/
def loseHouse (d : Nat) : M :=
  M.look fun s => match (s.chip.die d).launch with
    | none => M.skip
    | some l => M.iff (8 ≤ d) (M.all [
        M.mod fun c => { c with launches := c.launches.map fun k =>
          if k.id = l && !k.endedDies.contains d then { k with endedDies := k.endedDies ++ [d] } else k },
        modDie d fun x => { x with run := .idle, launch := none }, schedIn 0 (.completionWord l)])

/-- Rows of a die that reset leaves undefined (R351): wall or scratch, and code store. -/
def undefinedRows (d : Nat) : M :=
  let rows := if d < 8 then (List.range (Config.banks * Config.bankRows)).map fun k => memAddr kWall d (64 * k)
    else (List.range 4096).map fun k => memAddr kScratch d (64 * k)
  let code := (List.range (Config.codeStore d)).map fun k => memAddr kCode d (64 * k)
  M.each (rows ++ code) fun a => M.look fun s => M.write ⟨a, allBytes, Config.freeRow s.chip.free a⟩

/-- A map whose values at `lo` to `lo + n - 1` are given by number. -/
def SMap.tabulate {w : Nat} (lo n : Nat) (f : Nat → BitVec w) : SMap (BitVec w) :=
  ((List.range n).map fun k => (lo + k, f (lo + k))).filter fun p => p.2 != 0
/-- The registers of a stream after a reset of its die (R351); `base` numbers the free values. -/
def undefinedCtx (n base : Nat) (house sh : Bool) : Ctx :=
  let v (k : Nat) : Nat := Config.freeBits n (base + k)
  { s := SMap.tabulate 1 63 fun k => BitVec.ofNat 64 (v k), p := BitVec.ofNat 16 (2 * v 0), rotb := BitVec.ofNat 10 (v 64),
    c := SMap.tabulate 0 (if sh then 4 else 32) fun k => BitVec.ofNat 216 (v (100 + k)),
    tl := SMap.tabulate 0 (if sh then 16 else 512) fun k => BitVec.ofNat 768 (v (200 + k)),
    v := if sh || house then [] else SMap.tabulate 0 2048 fun k => BitVec.ofNat 32768 (v (800 + k)) }
/-- A die with its registers, its arrays' contents and its route store undefined (R351). DESIGN CHOICE, log entry 157. -/
def Die.undefine (x : Die) (d n : Nat) : Die :=
  let v (k : Nat) : Nat := Config.freeBits n (4096 + k)
  let house := decide (8 ≤ d)
  let rm : RMode := [.rne, .rtz, .rup, .rdn, .rna, .sr].getD (v 0 % 6) .rne
  let y := { x with
    main := undefinedCtx n 0 house false, shadow := undefinedCtx n 3000 house true,
    fpctl := ⟨rm, bitOf (v 1) 0, bitOf (v 1) 1, ⟨v 2 % 13, Nat.mod_lt _ (by decide)⟩, BitVec.ofNat 8 (v 3)⟩,
    sbchk := BitVec.ofNat 3 (v 4), holdcnt := BitVec.ofNat 64 (v 5), ssnum := BitVec.ofNat 32 (v 6) }
  if house then y
  else { y with
    xw := SMap.tabulate 0 4096 fun k => BitVec.ofNat 11776 (v (100 + k)),
    matrix := { y.matrix with tile := { gen := some n }, accGen := some n, modes := BitVec.ofNat 4 (v 7), modesNow := BitVec.ofNat 4 (v 7),
                              cnt := BitVec.ofNat 12 (v 8), ep := SMap.tabulate 0 128 fun k => BitVec.ofNat 2048 (v (5000 + k)) }
    mace := { y.mace with kstate := BitVec.ofNat 64 (v 9), kview := BitVec.ofNat 64 (v 9),
                          cells := SMap.tabulate 0 65536 fun k => BitVec.ofNat 80 (v (6000 + k)) } }

/-- A party of launch `l` on die `y` as a record tells of it: what runs there, what was saved when it was switched out, or nothing yet. -/
def Die.partyOf (y : Die) (l : Launch) (d : Nat) : Die :=
  match l.saved.find? fun p => p.die == d with
  | some p => { y with main := p.ctx, inShadow := false, ssnum := p.ssnum, rgnId := l.region, mace := p.mace, copy := p.copy }
  | none => if y.launch == some l.id then y
    else { y with main := {}, inShadow := false, ssnum := 0, rgnId := l.region, mace := {}, copy := {} }

/-- What a reset of a die empties first (R351). -/
def Die.emptied (y : Die) : Die :=
  { y with tcCopy := [], tcGather := [], tcFabric := [], tcSeq := [], entries := [], logF := [], logC := [], logG := [], logOut := [],
           monitors := [], ats := [], atsWait := [] }
/-- What a reset leaves of a die, but for what is undefined (R351). -/
def Die.afterReset (y : Die) : Die :=
  { Die.reset with
    inc := y.inc, incs := y.incs, launch := y.launch, run := y.run, present := y.present, dir := y.dir, hbm0 := y.hbm0, hbm1 := y.hbm1,
    linkst := y.linkst, reach := y.reach, stalecnt := y.stalecnt, regionTable := y.regionTable, tvec := y.tvec, power := y.power,
    router := y.router, routerNext := y.routerNext, rgnId := y.rgnId, faultrec := y.faultrec }
/-- An access that a reset of its requester leaves on its way: one that has been sent, a row of a record, or a refusal that another die has
sent back (R352). -/
def Chip.keepsAcc (c : Chip) (die : Nat) (a : Acc) : Bool :=
  a.die != die || a.sent || a.kind == .record || (a.stage == .failed &&
    (a.home.orElse fun _ => if a.target.isVirt then some a.dirDie else none) != some die &&
    c.events.any fun e => e.2 == .msgRs a.id)

/-- DIE_RESET (R351), in the order of the rule; far die 8's resets the package (R391). -/
def execDieReset (die : Nat) (s : State) : Host.Outcome State Fault Refusal :=
  let inc := (s.chip.die die).inc + 1
  onDie die s (if die = 8 then schedIn 0 .packageReset else M.all [
    M.mod fun c => { c with dies := c.dies.map fun y => { y with incs := SMap.set 0 y.incs die inc } },
    modDie die fun y => { y with inc },
    modDie die Die.emptied,
    M.each (s.chip.invals.map (·.id)) fun i => ackInval i die,
    M.each ((List.range 12).filter (· != die)) fun k =>
      M.each ((s.chip.die k).monitors.filter fun m => m.armed && m.home == die) (loseMonitor k),
    M.mod fun c =>
      let launches := c.launches.map fun l =>
        let saved := l.saved.map fun p => { p with monitors := p.monitors.filter fun m => !(m.armed && m.home == die) }
        { l with saved }
      { c with launches },
    freeSem (semId die),
    M.each (s.chip.migsWhere fun m => m.h == die || m.oldDie == die || m.newDie == die) fun p => abortMig p.1 p.2 8 true,
    M.each ((s.chip.die die).migs.map (·.id)) fun i => abortMig die i 8 true,
    M.each (s.chip.launches.filter fun l => (l.parties.any fun p => p.1 == die) && l.state != .ended) fun l => M.look fun t =>
      let y := (t.chip.die die).partyOf l die
      M.iff (l.status != 8) (M.seq (writeRecordAs (some l.id) die y (y.trapAt .dieLost 'F' .s0)) (contain (t.chip.holds l).fdom)),
    loseHouse die, loseTargets die, loseRecvs die, loseLogged die,
    M.mod fun c => { c with accs := c.accs.filter (c.keepsAcc die), loaded := c.loaded.filter fun p => p.2 != die },
    modDie die fun y => y.afterReset.undefine die s.chip.free,
    undefinedRows die, tickFree,
    M.look fun t => M.each (t.chip.accs.filter fun a => a.die == die && a.kind == .record && a.stage == .ats) beginAcc, replayLogs])

end Sys2Proof.Machine
end

