-- ==== Sys2Proof/Machine/Hbm.lean ====
section
/-!
DEFINITION. The device pages (R365, R377, R393): reading and writing each register; training, repair, temperature and the calendar's
levels of the stacks (R370-R385, R398); power (R392, R393).
-/

namespace Sys2Proof.Machine

/-! ### Reading the pages -/

def modHbm (d k : Nat) (f : Hbm → Hbm) : M := modDie d fun x => x.modStack k f

/-- Read HSTAT (R378). -/
def Hbm.hstat (h : Hbm) : Word :=
  let n (b : Nat) : Nat := ((List.range 256).filter fun pc => bitOf (h.rep pc) b).length
  BitVec.ofNat 64 (pack [(2, h.level), (3, h.wheld), (3, 0), (9, n 4), (9, n 5)])

/-- A tap register as it reads: a capture steps the one it sweeps (R381). -/
def Hbm.tap (h : Hbm) (now : Nat) (wr : Bool) (l : Nat) : Word :=
  let k := 9 * h.pc + l
  let v := if wr then SMap.get 0 h.wrtap k else SMap.get 0 h.rdtap k
  match h.job with
  | some (.eye pc lane dir len start) =>
    if dir == wr && 9 * pc + lane == k then BitVec.ofNat 64 (Nat.min 63 ((now - start) / (32 + 8 * (len + 1)))) else v.setWidth 64
  | _ => v.setWidth 64

/-- A register of a stack page, by offset in the page (R377, R378). -/
def Hbm.read (h : Hbm) (now off : Nat) : Word :=
  if off = 0 then h.hstat
  else if off = 0x008 then h.pcsel.setWidth 64
  else if off = 0x010 then h.crcth.setWidth 64
  else if off = 0x018 then BitVec.ofNat 64 (h.patctl.toNat - fld h.patctl.toNat 0 1)
  else if off = 0x020 then BitVec.ofNat 64 (pack [(8, h.fail.toNat), (1, 0), (1, h.done.toNat), (1, h.edone.toNat), (5, 0), (16, h.err.toNat)])
  else if off = 0x028 then h.eyectl.setWidth 64
  else if off = 0x030 then h.eye
  else if 0x100 ≤ off && off < 0x180 then
    let l := (off - 0x100) / 8
    BitVec.ofNat 64 (pack [(8, SMap.get 0 h.temp l), (2, SMap.get 0 h.layer l)])
  else if 0x200 ≤ off && off < 0x248 then h.tap now false ((off - 0x200) / 8)
  else if 0x280 ≤ off && off < 0x2C8 then h.tap now true ((off - 0x280) / 8)
  else if off = 0x300 then BitVec.ofNat 64 (h.rep h.pc)
  else if 0x308 ≤ off && off < 0x350 then (SMap.get 0 h.crccnt (9 * h.pc + (off - 0x308) / 8)).setWidth 64
  else 0

/-- PKG (R365). -/
def Chip.pkg (c : Chip) (d : Nat) : Word := BitVec.ofNat 64 (pack [(8, c.pkgId), (8, c.npkg), (16, (c.die d).reach.toNat)])

/-- An 8-byte register of the device pages of die `d` (R365, R377, R393). -/
def readReg (c : Chip) (d off : Nat) : Word :=
  let x := c.die d
  if off < 0x2000 then
    if off = 0x1000 then x.stalecnt.setWidth 64
    else if off = 0x1008 then x.linkst.setWidth 64
    else if off = 0x1010 then c.pkg d
    else if 0x1040 ≤ off && off < 0x1840 then SMap.get 0 x.routerNext ((off - 0x1040) / 8)
    else if 0x1900 ≤ off && off < 0x1B00 && d = 8 then SMap.get 0 c.slotsNext ((off - 0x1900) / 8)
    else 0
  else if 8 ≤ d then 0
  else if off < 0x3000 then x.hbm0.read c.now (off - 0x2000)
  else if off < 0x4000 then x.hbm1.read c.now (off - 0x3000)
  else if off = 0x4000 then x.power.pwr.setWidth 64
  else if off = 0x4008 then x.power.cap.setWidth 64
  else if off = 0x4010 then BitVec.ofNat 64 (pack [(8, x.power.tj.toNat), (32, x.power.govcyc.toNat)])
  else 0

/-! ### Writing the pages -/

/-- ROUTER_ENTRY_WRITE (R362): it applies from the next communication phase. DEDUCED, log entry 85. -/
def execRouterEntryWrite (die entry : Nat) (val : BitVec 64) (s : State) : Host.Outcome State Fault Refusal :=
  onDie die s (modDie die fun x => { x with routerNext := SMap.set 0 x.routerNext entry val })

/-- SLOT_TABLE_WRITE (R366): it applies from the next rotation; with none running, from the optical switch's next epoch. -/
def execSlotTableWrite (entry : Nat) (val : BitVec 64) (s : State) : Host.Outcome State Fault Refusal :=
  finish s (M.seq (M.mod fun c => { c with slotsNext := SMap.set 0 c.slotsNext entry val })
    (M.iff (!(s.chip.events.any fun e => e.2 == .opticalEpoch))
      (M.seq (sched (s.chip.now + 1 + Config.deviceDelay s.chip.free) .opticalEpoch) tickFree)))

/-- Requests that waited for a pseudo-channel perform once it is in service (R379). -/
def releaseStalled (d k : Nat) : M :=
  M.look fun s =>
    let h := (s.chip.die d).stack k
    let go := h.stalled.filterMap fun i => (s.chip.acc i).filter fun a => match pcOf a.key with
      | some (_, _, pc) => !h.training pc
      | none => true
    M.seq (modHbm d k fun h => { h with stalled := h.stalled.filter fun i => !(go.any fun a => a.id == i) })
      (M.each go fun a => schedIn 0 (performEvent a))

/-- PCSEL_WRITE (R379). -/
def execPcselWrite (die stack : Nat) (val : BitVec 64) (s : State) : Host.Outcome State Fault Refusal :=
  onDie die s (M.seq (modHbm die stack fun h => { h with pcsel := val.setWidth 9 }) (releaseStalled die stack))

/-- PATCTL_GO (R380, R398): the fields are written; with GO a run starts on a pseudo-channel in training. -/
def execPatctlGo (die stack : Nat) (val : BitVec 64) (s : State) : Host.Outcome State Fault Refusal :=
  let v := val.toNat
  let h := (s.chip.die die).stack stack
  let go := bitOf v 0 && h.job.isNone && h.train
  let len := fld v 8 8
  let seed := if fld v 16 16 = 0 then 0xACE1 else fld v 16 16
  onDie die s (M.seq
    (modHbm die stack fun h => { h with
      patctl := BitVec.ofNat 32 (pack [(1, 0), (1, fld v 1 1), (6, 0), (8, len), (16, fld v 16 16)]),
      job := if go then some (.pattern h.pc (bitOf v 1) len seed) else h.job, done := if go then false else h.done })
    (M.iff go (schedIn (32 + 8 * (len + 1)) (.patternRunDone die stack))))

/-- PATTERN_RUN_DONE (R380): which lanes fail, and by how many of the 8 (LEN + 1) bits each delivers, depends on the part (R378).
DESIGN CHOICE, log entry 112. -/
def execPatternRunDone (die stack : Nat) (s : State) : Host.Outcome State Fault Refusal :=
  onDie die s (match ((s.chip.die die).stack stack).job with
    | some (.pattern _ _ len _) =>
      let w := Config.freeWord s.chip.free
      let fail := w.extractLsb' 0 8
      let n := popN fail.toNat 8
      let err := Nat.min 65535 (n + fld w.toNat 8 17 % (n * (8 * (len + 1) - 1) + 1))
      M.seq (modHbm die stack fun h => { h with job := none, done := true, fail, err := BitVec.ofNat 16 err }) tickFree
    | _ => M.skip)

/-- EYECTL_GO (R381, R398). -/
def execEyectlGo (die stack : Nat) (val : BitVec 64) (s : State) : Host.Outcome State Fault Refusal :=
  let v := val.toNat
  let h := (s.chip.die die).stack stack
  let go := bitOf v 16 && h.job.isNone && h.train && fld v 0 4 ≤ 8
  let len := fld v 8 8
  onDie die s (M.seq
    (modHbm die stack fun h => { h with
      eyectl := BitVec.ofNat 16 (pack [(5, v), (3, 0), (8, len)]),
      job := if go then some (.eye h.pc (fld v 0 4) (bitOf v 4) len s.chip.now) else h.job,
      edone := if go then false else h.edone })
    (M.iff go (schedIn (64 * (32 + 8 * (len + 1))) (.eyeCaptureDone die stack))))

/-- Set a tap register. -/
def Hbm.setTap (h : Hbm) (wr : Bool) (k : Nat) (v : BitVec 6) : Hbm :=
  if wr then { h with wrtap := SMap.set 0 h.wrtap k v } else { h with rdtap := SMap.set 0 h.rdtap k v }

/-- EYE_CAPTURE_DONE (R381): the taps that pass depend on the part; a tap write made meanwhile stands a cycle later, whatever the stack's
engine then does (R398). -/
def execEyeCaptureDone (die stack : Nat) (s : State) : Host.Outcome State Fault Refusal :=
  let h := (s.chip.die die).stack stack
  onDie die s (M.seq
    (match h.tapDue with
      | some (wr, k, v) => modHbm die stack fun h => { h.setTap wr k v with tapDue := none }
      | none => M.skip)
    (match h.job with
      | some (.eye _ _ _ len start) =>
        M.iff (start + 64 * (32 + 8 * (len + 1)) ≤ s.chip.now)
          (M.all [modHbm die stack fun h => { h with
              job := none, edone := true, eye := Config.freeWord s.chip.free, tapAfter := none, tapDue := h.tapAfter }, tickFree,
            M.iff h.tapAfter.isSome (schedIn 1 (.eyeCaptureDone die stack))])
      | _ => M.skip))

/-- A write of a tap register (R379, R398); it stands over an earlier one that is yet to apply. -/
def tapWrite (d k : Nat) (wr : Bool) (l : Nat) (v : Word) : M :=
  modHbm d k fun h =>
    let r := 9 * h.pc + l
    let h := if h.train && (match h.tapDue with | some (w, k, _) => w == wr && k == r | none => false) then { h with tapDue := none } else h
    if !h.train then h
    else match h.job with
      | some (.eye pc lane dir _ _) =>
        if dir == wr && 9 * pc + lane == r then { h with tapAfter := some (wr, r, v.setWidth 6) } else h.setTap wr r (v.setWidth 6)
      | _ => h.setTap wr r (v.setWidth 6)

/-- REPAIR_WRITE (R379, R382). -/
def execRepairWrite (die stack : Nat) (val : BitVec 64) (s : State) : Host.Outcome State Fault Refusal :=
  onDie die s (modHbm die stack fun h =>
    if h.train then { h with repair := SMap.set 0 h.repair h.pc (BitVec.ofNat 6 (pack [(3, val.toNat), (1, 0), (2, fld val.toNat 4 2)])) }
    else h)

/-! ### CRC counts and live repair (R383, R384) -/

/-- The access a message between dies belongs to. -/
def msgAcc : Instr → Option Nat
  | .msgRd i | .msgWr i | .msgAt i | .msgRs i | .msgXf i | .walkerResolve i | .msgMg (.arm i) | .msgMg (.armAck i) | .routeNotice i _ =>
    some i
  | _ => none
/-- Pending events happen `n` cycles later. -/
def delayWhere (p : Instr → Bool) (n : Nat) : M :=
  M.mod fun c => { c with events := c.events.map fun e => if p e.2 then (e.1 + n, e.2) else e }
/-- The pending messages of an access arrive `n` cycles later. -/
def delayAcc (id n : Nat) : M := delayWhere (fun i => msgAcc i == some id) n

/-- A live repair of a pseudo-channel begins: what its requests have not transferred comes 1,024 cycles later, those of a reduction window
and of the Cloves too (R384). DEDUCED, log entry 144. -/
def pauseRequests (d k pc : Nat) : M :=
  M.look fun s =>
    let c := s.chip
    let on (key : Nat) : Bool := pcOf key == some (d, k, pc)
    let late := c.accs.filter fun a => a.stage == .forwarded && on a.key
    let inWindow (a : Acc) : Bool := (c.die a.die).reds.any fun e => e.acc == a.id
    M.all [
      M.mod fun c => { c with events := c.events.map fun e =>
        if c.now < e.1 && late.any fun a => e.2 == performEvent a then (e.1 + 1024, e.2) else e },
      M.each (late.filter inWindow) fun a => modAcc a.id fun x => { x with rest := x.rest + 1024 },
      M.each (List.range 12) fun f => modMigs f fun l => l.map fun m =>
        m.delayRows c.now (fun i => on (m.oldRow i) || on (m.newRow i)) 1024]

/-- A count of lane `lane` reaches THRESH (R384). -/
def repairStart (d k pc lane : Nat) : M :=
  M.look fun s =>
    let h := (s.chip.die d).stack k
    let now := s.chip.now
    M.seq (fwev 4) (match h.pause.find? fun p => p.1 == pc with
      | some (_, l, a, b) =>
        M.iff (a == now + 1 && lane < l) (M.seq
          (modHbm d k fun h => { h with pause := (pc, lane, a, b) :: h.pause.filter fun p => p.1 != pc })
          (M.mod fun c => { c with events := c.events.map fun e =>
            if e.2 = .liveRepairComplete d k pc l then (e.1, .liveRepairComplete d k pc lane) else e }))
      | none => M.iff (!bitOf (h.rep pc) 4) (M.seq
          (modHbm d k fun h => { h with pause := (pc, lane, now + 1, now + 1024) :: h.pause })
          (M.seq (pauseRequests d k pc) (schedIn 1025 (.liveRepairComplete d k pc lane)))))

/-- The count of a physical lane becomes `n`; of a pseudo-channel in service it may reach THRESH (R378, R384). -/
def setCrc (d k pc lane n : Nat) : M :=
  M.look fun s =>
    let h := (s.chip.die d).stack k
    let old := (SMap.get 0 h.crccnt (9 * pc + lane)).toNat
    M.seq (modHbm d k fun h => { h with crccnt := SMap.set 0 h.crccnt (9 * pc + lane) (BitVec.ofNat 16 n) })
      (M.iff (h.crcth != 0 && decide (old < h.crcth.toNat) && decide (h.crcth.toNat ≤ n) && !h.training pc && !bitOf (h.rep pc) 5)
        (repairStart d k pc lane))

/-- A CRC failure on a physical lane of a pseudo-channel counts, and at THRESH starts a repair (R383, R384). -/
def countCrc (d k pc lane : Nat) : M :=
  M.look fun s =>
    let h := (s.chip.die d).stack k
    M.iff (!h.training pc) (setCrc d k pc lane (Nat.min 65535 ((SMap.get 0 h.crccnt (9 * pc + lane)).toNat + 1)))

/-! ### Writes to the pages -/

/-- A write to a stack page, by offset in the page. -/
def stackWrite (d k off : Nat) (v : Word) : M :=
  if off = 0x008 then schedIn 0 (.pcselWrite d k v)
  else if off = 0x010 then modHbm d k fun h => { h with crcth := v.setWidth 16 }
  else if off = 0x018 then schedIn 0 (.patctlGo d k v)
  else if off = 0x028 then schedIn 0 (.eyectlGo d k v)
  else if 0x200 ≤ off && off < 0x248 then tapWrite d k false ((off - 0x200) / 8) v
  else if 0x280 ≤ off && off < 0x2C8 then tapWrite d k true ((off - 0x280) / 8) v
  else if off = 0x300 then schedIn 0 (.repairWrite d k v)
  else if 0x308 ≤ off && off < 0x350 then
    M.look fun s => setCrc d k ((s.chip.die d).stack k).pc ((off - 0x308) / 8) (fld v.toNat 0 16)
  else M.skip

/-- REGISTER_WRITE (R7): a write to an 8-byte register of a device page; read-only and unlisted ones ignore it. -/
def execRegisterWrite (die off : Nat) (val : BitVec 64) (s : State) : Host.Outcome State Fault Refusal :=
  onDie die s (
    if off < 0x2000 then
      (if 0x1040 ≤ off && off < 0x1840 then schedIn 0 (.routerEntryWrite die ((off - 0x1040) / 8) val)
       else if 0x1900 ≤ off && off < 0x1B00 && die = 8 then schedIn 0 (.slotTableWrite ((off - 0x1900) / 8) val)
       else M.skip)
    else if 8 ≤ die then M.skip
    else if off < 0x3000 then stackWrite die 0 (off - 0x2000) val
    else if off < 0x4000 then stackWrite die 1 (off - 0x3000) val
    else if off = 0x4008 then
      modDie die fun x => { x with power := { x.power with cap := BitVec.ofNat 12 (Nat.min 320 (fld val.toNat 0 12)) } }
    else M.skip)

/-! ### CRC retries and the end of a repair (R383, R384) -/

/-- A transfer of a Clove's copy fails: of the row that performs next, or, with none under way, the read of the next row. Between two near
frames it may be either's. It is made again 64 cycles later, or after four retries is uncorrectable (R333, R383).
DEDUCED, log entry 144. -/
def retryRow (f : Nat) (m : Mig) (lane : Nat) : M :=
  M.look fun s =>
    let i := match m.batches with | (_, i, _) :: _ => i | [] => m.rows.length - m.left
    let near (key : Nat) : Bool := (pcOf key).isSome
    let both := near (m.oldRow i) && near (m.newRow i) && !m.batches.isEmpty
    let write := !m.batches.isEmpty && near (m.newRow i) && !(both && Config.freeBit s.chip.free)
    let n := SMap.get 0 m.retries (2 * i + write.toNat)
    match pcOf (if write then m.newRow i else m.oldRow i) with
    | none => M.skip
    | some (d, k, pc) => M.iff (i < m.rows.length) (M.all [countCrc d k pc lane, M.iff both tickFree,
        if 4 ≤ n then abortMig f m.id (if write then 3 else 9) true
        else modMig f m.id fun x => { x with
          retries := SMap.set 0 x.retries (2 * i + write.toNat) (n + 1),
          first := if x.batches.isEmpty then x.first + 64 else x.first,
          batches := match x.batches with
            | [] => []
            | (t, i, n) :: l => (t + 64, i, 1) :: if n ≤ 1 then l else l ++ [(t, i + 1, n - 1)] }])

/-- HBM_CRC_RETRY (R383): a transfer of an access, or of a migration, fails its CRC on a physical lane; a fifth failure is
uncorrectable. -/
def execHbmCrcRetry (acc lane : Nat) (s : State) : Host.Outcome State Fault Refusal :=
  finish s (M.seq
    (M.each (s.chip.migsBy (·.first) fun m => m.id == acc) fun p => retryRow p.1 p.2 lane)
    (withAcc acc fun a => match pcOf a.key with
      | none => M.skip
      | some (d, k, pc) => M.seq (countCrc d k pc lane) (
          if 4 ≤ a.retries then accFail acc .uncorrectable 0
          else M.seq (modAcc acc fun x => { x with retries := x.retries + 1 }) (delayAcc acc 64))))

/-- LIVE_REPAIR_COMPLETE (R384): the chain is shifted past the failing lane, and the counts start again. -/
def execLiveRepairComplete (die stack pc lane : Nat) (s : State) : Host.Outcome State Fault Refusal :=
  onDie die s (modHbm die stack fun h => { h with
    repair := SMap.set 0 h.repair pc (BitVec.ofNat 6 (pack [(3, lane), (1, 0), (1, 1), (1, fld (h.rep pc) 5 1)])),
    crccnt := h.crccnt.filter fun p => p.1 / 9 != pc, pause := h.pause.filter fun p => p.1 != pc })

/-! ### Temperature (R374-R376) -/

/-- A layer's new level (R374). -/
def layerLevel (prev t : Nat) : Nat :=
  if prev = 3 || 105 ≤ t then 3
  else if 95 ≤ t || (prev = 2 && 93 ≤ t) then 2
  else if 85 ≤ t || (1 ≤ prev && 83 ≤ t) then 1
  else 0

/-- CATTRIP is asserted and every die stops (R376). -/
def catTrip : M := M.mod fun c => if c.cattrip.isSome then c else { c with cattrip := some c.now }

/-- The sample of one stack. -/
def sampleStack (d k : Nat) : M :=
  M.look fun s =>
    let h := (s.chip.die d).stack k
    let t (l : Nat) : Nat := Nat.min 255 (Config.temperature s.chip.free (32 * d + 16 * k + l))
    let lv (l : Nat) : Nat := layerLevel (SMap.get 0 h.layer l) (t l)
    let top := ((List.range 16).map lv).foldl Nat.max 0
    M.all [modHbm d k fun h => { h with
        temp := (List.range 16).foldl (fun m l => SMap.set 0 m l (t l)) h.temp,
        layer := (List.range 16).foldl (fun m l => SMap.set 0 m l (lv l)) h.layer, next := top },
      if top = 3 then catTrip
      else M.iff (top != h.level) (sched ((s.chip.now / 128 + 1) * 128) (.levelChangeApply d k))]

/-- TEMP_SAMPLE (R374): every 1,024 cycles. -/
def execTempSample (s : State) : Host.Outcome State Fault Refusal :=
  finish s (M.all [M.each (List.range 8) fun d => M.seq (sampleStack d 0) (sampleStack d 1), tickFree, schedIn 1024 .tempSample])

/-- LEVEL_CHANGE_APPLY (R374, R375): at the start of a rotation. -/
def execLevelChangeApply (die stack : Nat) (s : State) : Host.Outcome State Fault Refusal :=
  let h := (s.chip.die die).stack stack
  onDie die s (M.iff (h.next != h.level) (M.all [
    modHbm die stack fun h => { h with level := h.next, since := if h.next = 2 || h.level = 2 then s.chip.now else h.since }, fwev 3,
    if h.next = 2 then schedIn 8192 (.positionWithhold die stack)
    else M.iff (h.level = 2 && h.wheld != 0) (schedIn 8192 (.positionReturn die stack))]))

/-- 64 rotations, or a multiple, have passed since the level became 2 or fell from it (R375). -/
def Hbm.spent (h : Hbm) (now : Nat) : Bool := h.since < now && (now - h.since) % 8192 == 0

/-- POSITION_WITHHOLD (R375). -/
def execPositionWithhold (die stack : Nat) (s : State) : Host.Outcome State Fault Refusal :=
  let h := (s.chip.die die).stack stack
  onDie die s (M.iff (h.level == 2 && h.spent s.chip.now && h.wheld < 6)
    (M.seq (modHbm die stack fun h => { h with wheld := h.wheld + 1 }) (schedIn 8192 (.positionWithhold die stack))))

/-- POSITION_RETURN (R375): the most recently withheld first. -/
def execPositionReturn (die stack : Nat) (s : State) : Host.Outcome State Fault Refusal :=
  let h := (s.chip.die die).stack stack
  onDie die s (M.iff (h.level < 2 && h.spent s.chip.now && h.wheld != 0)
    (M.seq (modHbm die stack fun h => { h with wheld := h.wheld - 1 }) (schedIn 8192 (.positionReturn die stack))))

/-- JUNCTION_CATTRIP (R393). -/
def execJunctionCattrip (die : Nat) (s : State) : Host.Outcome State Fault Refusal := onDie die s catTrip

/-! ### Power (R393) -/

/-- POWER_WINDOW_END (R393): the average of the window, and the governor's hold of 64 cycles, of both streams, when it exceeds the cap.
DEDUCED, log entry 60. DEDUCED, log entry 61. -/
def execPowerWindowEnd (die : Nat) (s : State) : Host.Outcome State Fault Refusal :=
  let p := fld (Config.power s.chip.free die) 0 16
  let tj := Nat.min 255 (Config.temperature s.chip.free (256 + die))
  onDie die s (M.all [
    modDie die fun x => { x with power := { x.power with pwr := BitVec.ofNat 16 p, tj := BitVec.ofNat 8 tj } }, tickFree,
    M.iff (10 * (s.chip.die die).power.cap.toNat < p) (M.seq
      (modDie die fun x =>
        let w : Wait := .governor (s.chip.now + 64)
        { x with main := { x.main with waits := x.main.waits ++ [w] }, shadow := { x.shadow with waits := x.shadow.waits ++ [w] } })
      (schedIn 64 (.governorHoldEnd die))),
    M.iff (115 ≤ tj) (schedIn 0 (.junctionCattrip die)), schedIn 1800 (.powerWindowEnd die)])

/-- GOVERNOR_HOLD_END (R393). -/
def execGovernorHoldEnd (die : Nat) (s : State) : Host.Outcome State Fault Refusal :=
  let on (w : Wait) : Bool := match w with | .governor t => s.chip.now < t | _ => true
  onDie die s (modDie die fun x => { x with
    main := { x.main with waits := x.main.waits.filter on }, shadow := { x.shadow with waits := x.shadow.waits.filter on } })

end Sys2Proof.Machine
end

