-- ==== Sys2Proof/Machine/Fabric.lean ====
section
/-!
DEFINITION. Messages between dies (R354-R361) and what an access does at the walker and at its home (R95, R101-R114, R321): RD, WR,
AT, RS, XF and MG, route notices, landings and flits.
-/

namespace Sys2Proof.Machine

/-! ### Whether an access may perform now -/

/-- The die an SC operation will perform at, as far as anything tells: the frame's die, or the new frame's for one that waits
through a freeze (R332). DEDUCED, log entry 65. -/
def Chip.scHome (c : Chip) (b : Acc) : Option Nat :=
  if b.stage = .atWalker then
    ((c.dies.map (·.migs)).flatten.find? fun m => m.h == b.dirDie && m.page == b.off / 2 ^ 16).map (·.newDie)
  else b.home.orElse fun _ => b.knownHome

/-- An operation of an earlier (rotation, position) pair that names, or may yet name, the home has not performed (R110). -/
def Chip.scBlocked (c : Chip) (a : Acc) (home : Nat) : Bool :=
  match a.sc with
  | none => false
  | some p => c.accs.any fun b =>
      (match b.sc with | some q => decide (q < p) | none => false) && !b.settled &&
        (match c.scHome b with | some h => h == home | none => true)

/-- The service path finds the port of a bank taken in this cycle (R77). A read comes after the bundles of the cycle.
DEDUCED, log entry 43. -/
def Chip.portBusy (c : Chip) (h bank : Nat) (write : Bool) : Bool :=
  c.served.contains (h, bank, write) ||
    (write && (let x := c.die h; x.steps && x.ctx.resv.any fun r => r.cyc == x.ctx.prog && r.bank == bank && r.write))

/-- Bank of a wall row's memory address. -/
def bankOf (key : Nat) : Nat := key % 2 ^ 64 / 64 / 1536
def isWall (key : Nat) : Bool := key / 2 ^ 64 % 8 == kWall

/-- What holds an access back at its home for now: the frame or leaf of a page in motion (R301, R335), an earlier wheel pair, a
bank port, a pause (R384) or training (R379) of its pseudo-channel, or its place in the window of a node's writes (R238). -/
def Acc.holdUp (s : State) (a : Acc) (h : Nat) (write : Bool) : Option Nat :=
  let c := s.chip
  let inMove := match a.kind with
    | .mmst | .mmstRow => c.moving fun m => inFrame m.oldAddr a.key || inFrame m.newAddr a.key
    | .plwrite => c.moving fun m => m.h == h && m.leaf == a.key % 2 ^ 64
    | _ => false
  let ahead := match a.kind, a.node with
    | .nodeWrite, some (n, k) => (match (c.die a.die).node n with | some m => decide (m.prefix' + 64 ≤ k) | none => false)
    | _, _ => false
  if c.isPaused a.key then some 1024
  else if inMove || ahead || c.scBlocked a h || (isWall a.key && a.kind != .arm && c.portBusy h (bankOf a.key) write) then some 1
  else none

/-- A record's last row has performed: the handler may serve its fault (R338), and firmware is told (R305). -/
def recordRow (a : Acc) : M :=
  M.look fun s =>
    let same := s.chip.accs.any fun b => b.kind == .record && b.a == a.a && b.id != a.id && !b.settled
    let mark (t : Trap) : Trap := if a.a = BitVec.ofNat 64 t.record then { t with ready := true } else t
    M.iff (!same) (M.all [fwev 1, modDie a.die fun x => { x with trap := x.trap.map mark, trapQ := x.trapQ.map mark },
      schedIn 0 (.shadowEntry a.die)])

/-- What follows the performing of a write, whose acknowledgement `ack` takes to its requester (R352): it leaves the log, its node or its
record, unless the requester has been reset since. -/
def wroteWith (a : Acc) (ack : Bool) : M :=
  M.look fun s =>
    let live := (s.chip.die a.die).inc == a.sinc
    M.all [M.iff live (M.all [unlog a, M.iff (a.kind == .record) (recordRow a), nodeDone a]),
      if ack then M.seq (modAcc a.id fun x => { x with stage := .performed }) (schedIn a.rest (.msgRs a.id)) else dropAcc a.id,
      M.iff (live && a.kind == .cword) (match a.launch with
        | some l => M.seq (modLaunch l fun k => { k with word := 2 }) (schedIn 0 (.completionWord l))
        | none => M.skip)]
/-- A write has performed; its home, when it is another die, acknowledges it (R357). -/
def wrote (a : Acc) : M := wroteWith a (a.rest != 0 && (match a.home with | some h => h != a.die | none => false))
/-- A RED that a gateway combined into another has performed with it (R256): it has no message of its own. -/
def wroteJoined (a : Acc) : M := wroteWith a false

/-- An access performs at its home in another package (R366, R368): what it reads there is open, and the answer takes as long to
come back; an OSEND row counts as done (R269). -/
def remotePerform (a : Acc) : M :=
  M.look fun s =>
    if a.kind == .osend then
      M.seq (dropAcc a.id) (modDie a.die fun x => { x with odone := SMap.set 0 x.odone a.word ((SMap.get 0 x.odone a.word) + 1) })
    else if a.entry.isSome || a.kind.isRead then
      M.all [modAcc a.id fun x => { x with stage := .performed, data := Config.deviceRow s.chip.free },
        schedIn (585 + Config.extra s.chip.free) (.msgRs a.id), tickFree]
    else wrote a

/-- The access performs: `k` at its home `h`, when nothing holds it back; one that waits for a calendar position asks for it again. What
crosses a reset of its requester performs like any other (R352). -/
def performAt (id : Nat) (write : Bool) (k : Acc → Nat → M) : M :=
  M.look fun s => withAcc id fun a =>
    let c := s.chip
    match a.home with
    | none => M.iff (a.stage == .forwarded) (remotePerform a)
    | some h =>
      if a.stage != .forwarded then M.skip
      else if let some t := a.ready then board a h (a.key % 2 ^ 64) t c.now
      else if a.kind.isNode && (c.die a.die).inc == a.sinc && (match a.node with
          | some (n, _) => (match (c.die a.die).node n with | some m => m.fault.isSome | none => true)
          | none => true) then dropAcc id
      else if (c.die h).inc != a.inc || !(c.die h).present then accFailIn a.rest id .targetLost 0
      else match a.holdUp s h write with
        | some n => schedIn n (performEvent a)
        | none =>
          match pcOf a.key with
          | some (d, j, pc) =>
            if ((c.die d).stack j).training pc then modHbm d j fun y => { y with stalled := y.stalled ++ [id] }
            else k a h
          | none =>
            M.seq (M.iff (isWall a.key && a.kind != .arm) (M.mod fun c => { c with served := (h, bankOf a.key, write) :: c.served })) (k a h)

/-- The row as it stood before the service writes of this cycle (R78), or a register row (R365, R377).
DESIGN CHOICE, log entry 4. -/
def State.rowNow (s : State) (key : Nat) : Row :=
  match pageOf key with
  | some (d, off) => rowOf fun k => readReg s.chip d (off + 8 * k)
  | none => match s.chip.undo.find? fun p => p.1 == key with
    | some p => p.2
    | none => s.mem.row key

/-! ### RD (R357) -/

/-- MSG_RD: a read performs at its home; its data leaves for the requester. -/
def execMsgRd (acc : Nat) (s : State) : Host.Outcome State Fault Refusal :=
  finish s (performAt acc false fun a h => M.look fun t =>
    let la := a.key % 2 ^ 64
    if a.kind == .plread then
      (if t.chip.leafBad h la then accFailIn a.rest acc .uncorrectable 0
       else M.seq (modAcc acc fun x => { x with stage := .performed, data := wordRow 0 (t.leafVal h la), word := 0 })
        (schedIn a.rest (.msgRs acc)))
    else if t.chip.isBad a.key then accFailIn a.rest acc .uncorrectable 0
    else M.seq (modAcc acc fun x => { x with stage := .performed, data := t.rowNow a.key }) (schedIn a.rest (.msgRs acc)))

/-! ### WR (R357) -/

/-- The whole row is written. -/
def Acc.whole (a : Acc) : Bool :=
  match a.kind with
  | .stWord | .scst | .mmst | .cword => false
  | .nodeWrite => a.a == BitVec.allOnes 64 && a.b == BitVec.allOnes 64
  | _ => a.be == allBytes

/-- A row of storage takes a write in this cycle: memory, the dirty line of a page in motion (R328), notices to monitors (R265),
and the directory's own rows (R317, R318). -/
def writeRow (h key : Nat) (be : BitVec 64) (data : Row) : M :=
  M.look fun s =>
    let old := s.mem.row key
    let off := key % 2 ^ 64
    let dir := key / 2 ^ 64 == homeKind h + 8 * h
    M.all [
      M.iff (isWall key && !(s.chip.undo.any fun p => p.1 == key)) (M.mod fun c => { c with undo := (key, old) :: c.undo }),
      M.write ⟨key, be, data⟩, markDirty key, notify h key,
      M.iff (dir && off < 0x40) (schedIn 0 (.directoryHeaderWrite h)),
      M.iff (dir && 0x8000 ≤ off && off < 0x10000) (M.each (List.range 8) fun k =>
        M.iff (fld be.toNat (8 * k) 8 != 0) (schedIn 0 (.directoryRootWrite h ((off - 0x8000) / 8 + k))))]

/-- A write to the device pages: each word enabled reaches its register (R365, R377). -/
def writePage (d off : Nat) (be : BitVec 64) (data : Row) : M :=
  M.each (List.range 8) fun k =>
    M.iff (fld be.toNat (8 * k) 8 != 0) (schedIn 0 (.registerWrite d (off + 8 * k) (rowWord data k)))

/-- A PLWRITE performs (R301, R326): every field but heat; heat raised in the 8 cycles before may stand. -/
def writeLeaf (h la : Nat) (v : BitVec 64) : M :=
  M.look fun s =>
    let near (t : Option Nat) : Bool := match t with | some q => decide (s.chip.now ≤ q + 8) | none => false
    let keep := match (s.chip.die h).dir.leaf la with
      | some l => (near l.rAt || near l.wAt || decide (s.chip.now ≤ l.changed + 8 && l.changed != 0)) && Config.freeBit s.chip.free
      | none => false
    M.all [modLeaf h la fun o => if keep then setFld (setFld v 42 2 (fld o.toNat 42 2)) 44 2 (fld o.toNat 44 2) else v,
      tickFree, replayLogs]

/-- MSG_WR: a write performs at its home as one event (R75, R112). A row that reads uncorrectably stays so under a partial write,
which is reported to the access's launch (R350); a row that takes no write fails a record or a saved context (R338, R382). -/
def execMsgWr (acc : Nat) (s : State) : Host.Outcome State Fault Refusal :=
  finish s (performAt acc true fun a h => M.look fun t =>
    if a.kind == .plwrite then
      let la := a.key % 2 ^ 64
      let dead := t.chip.isDead (leafRow h la)
      M.all [M.iff (!dead) (writeLeaf h la a.a), M.iff (dead || t.chip.leafBad h la) (uncorrectable a), wrote a]
    else
      let w := a.store (t.mem.row a.key)
      match pageOf a.key with
      | some (d, off) => M.seq (writePage d off w.2 w.1) (wrote a)
      | none =>
        let bad := t.chip.isBad a.key
        let report := M.iff (a.launch.isSome && a.kind != .cword) (uncorrectable a)
        if t.chip.isDead a.key then
          (if a.kind.isLaunch then accFailIn a.rest acc .uncorrectable 0 else M.seq report (wrote a))
        else M.all [writeRow h a.key w.2 w.1,
          M.iff (bad && a.whole) (M.mod fun c => { c with bad := c.bad.filter (· != a.key) }),
          M.iff (bad && !a.whole) report, wrote a])

/-! ### AT (R113, R254-R256, R357) -/

/-- The REDs that a gateway combined into the one that carries them (R256). DEDUCED, log entry 49. -/
def Chip.joined (c : Chip) (a : Acc) : List Acc := c.accs.filter fun b => b.kind == .red && b.node == some (a.id, 0) && b.die == a.die

/-- The row that a RED takes to its home: its own, combined with those that joined it. -/
def Chip.redSum (c : Chip) (a : Acc) : Row := (c.joined a).foldl (fun r b => redRow a.fn r b.data) a.data

/-- MSG_AT: an atomic or a combined reduction is one event on the row. -/
def execMsgAt (acc : Nat) (s : State) : Host.Outcome State Fault Refusal :=
  finish s (performAt acc true fun a h => M.look fun t =>
    let row := t.mem.row a.key
    let parts := t.chip.joined a
    let done : M := M.seq (M.each parts wroteJoined) (wrote a)
    if t.chip.isBad a.key then M.seq (M.iff (a.path != 7) (uncorrectable a)) done
    else if a.kind == .red then
      M.seq (writeRow h a.key allBytes (redRow a.fn row (t.chip.redSum a))) done
    else
      let old := rowWord row a.word
      let put := writeRow h a.key (wordBe a.word) (wordRow a.word (atomNew a.fn old a.a a.b))
      if a.entry.isSome || a.returns.isSome then
        M.all [put, modAcc acc fun x => { x with stage := .performed, data := wordRow a.word old }, schedIn a.rest (.msgRs acc)]
      else M.seq put done)

/-! ### RS (R251, R344, R357) -/

/-- A page request for the page of a refused translation, one for all that ask (R344). -/
def pageRequest (d va : Nat) : M :=
  M.look fun s =>
    let pg := va / 2 ^ 16
    let n := s.chip.free
    if s.chip.events.any fun e => match e.2 with | .pageRequestGrant k p _ => k == d && p == pg | _ => false then M.skip
    else M.seq (sched (s.chip.now + 1 + Config.deviceDelay n) (.pageRequestGrant d pg (Config.hostPri n))) tickFree

/-- A load's entry takes a fault, which the die meets at the named cycle (R251, R350). -/
def entryFault (a : Acc) (code : Code) : M :=
  modDie a.die fun x =>
    let entries := x.entries.map fun e => if a.entry == some e.id then { e with fault := some code } else e
    { x with entries }

/-- The translation that led an access astray is dropped when the mismatch is reported (R314). DEDUCED, log entry 64. -/
def dropEntry (a : Acc) : M :=
  M.iff (a.code == .targetLost && a.target.isVirt) (modDie a.die fun x =>
    x.setTc a.cache ((x.tc a.cache).filter fun e => a.va / 2 ^ e.bits != e.page))

/-- A failed access, by kind: a completion word is tried again every 4,096 cycles. A row of a record that cannot be written makes its
domain fatal with no record (R338). A write that the handler of a shadow run made is DOUBLE-FAULT, and enters no log (R342).
DEDUCED, log entry 118. DESIGN CHOICE, log entry 145: what the host asked for, and failed, is dropped without an answer. -/
def reportFail (a : Acc) : M :=
  M.look fun s =>
    let asks := a.code == .pageFault && a.cause == 1 && !a.asked && (a.entry.isSome || a.kind == .arm || a.kind == .record || a.kind == .cword || a.kind == .image)
    if a.kind == .hostRd || a.kind == .hostWr || a.path == 7 then dropAcc a.id
    else if asks then pageRequest a.die a.va
    else if a.kind == .record then
      M.seq (match s.chip.launches.find? fun l => some l.id == a.launch with
        | some l => contain (s.chip.holds l).fdom
        | none => M.skip) (dropAcc a.id)
    else if a.kind == .cword then
      M.seq (modAcc a.id fun x => { x with stage := .logged }) (schedIn 4096 (.msgRs a.id))
    else if a.kind == .image then
      M.seq (dropAcc a.id) (match a.launch with
        | some l => M.seq (modLaunch l fun k => { k with status := 7 }) (schedIn 0 (.launchPlace l))
        | none => M.skip)
    else if a.kind.isContext then M.seq (fatal a.die (a.trap .saveFault 'F' 0 0 0)) (dropAcc a.id)
    else if a.kind == .arm then (if a.fn = 1 then dropAcc a.id else armTrap a a.code)
    else if a.entry.isSome then entryFault a a.code
    else if a.kind == .nodeRead then
      (match a.node with | some (n, _) => M.seq (nodeFailAt a.die n a) (dropAcc a.id) | none => dropAcc a.id)
    else if a.kind == .nodeWrite && a.code != .pageFault && a.code != .targetLost then
      (match a.node with | some (n, _) => M.seq (nodeFailAt a.die n a) (dropAcc a.id) | none => dropAcc a.id)
    else if a.code == .uncorrectable then M.all [uncorrectable a, M.each (s.chip.joined a) settleWrite, settleWrite a]
    else if a.sh && (s.chip.die a.die).inShadow then
      M.all [takeTrap a.die (a.trap a.code 'F' 0 0 0), M.each (s.chip.joined a) settleWrite, settleWrite a]
    else M.seq (M.each (s.chip.joined a) fun b => logWrite { b with va := a.va, home := a.home, inc := a.inc } a.code (a.code != .pageFault))
      (logWrite a a.code (a.code != .pageFault || a.cause == 6))

/-- A row of a saved context has been read (R295). -/
def restoredRow (a : Acc) : M :=
  match a.launch with
  | none => M.skip
  | some l => M.mod fun c => { c with launches := c.launches.map fun k =>
      if k.id = l then
        let saved := k.saved.map fun p => if p.die = a.die then p.putRow a.a.toNat a.data else p
        { k with saved }
      else k }

/-- What a response does at its requester; one for another package waits for the slot that leads back (R368). DEDUCED, log entry 75. -/
def respond (a : Acc) : M :=
  M.look fun s =>
    if (s.chip.die a.die).inc != a.sinc then
      M.seq (modDie a.die fun x => { x with stalecnt := x.stalecnt + 1 }) (dropAcc a.id)
    else if a.stage == .failed then M.seq (dropEntry a) (reportFail a)
    else if a.stage == .granted then M.seq (modAcc a.id fun x => { x with stage := .start }) (beginAcc a)
    else if a.stage == .logged && a.kind == .cword then
      M.seq (modAcc a.id fun x => { x with stage := .start }) (beginAcc a)
    else if a.stage != .performed then M.skip
    else if a.kind == .nodeRead then schedIn 0 (.copyRowArrival a.id)
    else if a.kind == .arm then schedIn 0 (.msgMg (.armAck a.id))
    else if a.kind == .image then
      M.seq (dropAcc a.id) (match a.launch with
        | some l => M.seq (modLaunch l fun k => { k with img := k.img ++ [(a.a.toNat, a.data)] }) (schedIn 0 (.launchPlace l))
        | none => M.skip)
    else if a.kind == .restore then M.seq (dropAcc a.id) (restoredRow a)
    else if a.entry.isSome then schedIn 0 (.landingArrival a.id)
    else if let some p := a.returns then
      M.mod fun c => { c with oaccs := SMap.set [] c.oaccs p (SMap.get [] c.oaccs p ++ [a.id]) }
    else M.seq (dropAcc a.id) (M.iff (a.kind == .hostRd)
      (M.mod fun c => { c with hostData := SMap.set 0 c.hostData (a.die - 8) a.data }))

/-- MSG_RS: data, an old value, an acknowledgement or a fault reaches the requester. -/
def execMsgRs (acc : Nat) (s : State) : Host.Outcome State Fault Refusal := finish s (withAcc acc respond)

/-- LANDING_ARRIVAL (R41): the data waits in its entry for the named cycle. -/
def execLandingArrival (acc : Nat) (s : State) : Host.Outcome State Fault Refusal :=
  finish s (withAcc acc fun a => M.seq (dropAcc acc) (modDie a.die fun x =>
    let entries := x.entries.map fun e =>
      if a.entry == some e.id then
        { e with arrived := true, data := match e.what with | .word _ => wordRow 0 (rowWord a.data a.word) | _ => a.data }
      else e
    { x with entries }))

/-! ### XF (R262-R264) -/

/-- MSG_XF: a row reaches the receive staging of its destination, or the entry of the RECV that matches it. A party that has ended
takes part in no transfer but that of a RECV it had issued, whose result still lands (R161). -/
def execMsgXf (acc : Nat) (s : State) : Host.Outcome State Fault Refusal :=
  finish s (withAcc acc fun a =>
    let c := s.chip
    let d := a.home.getD 0
    let x := c.die d
    let tag := a.a.toNat
    if a.stage != .forwarded then M.skip
    else if x.inc != a.inc || !x.present then accFailIn (c.toDie d a.die) acc .targetLost 0
    else
      let here := x.comm && x.launch == a.launch && x.ssnum.toNat == a.b.toNat
      let hit := x.entries.find? fun e => match e.what with | .recv _ _ src t => src == a.die && t == tag && !e.arrived | _ => false
      if x.run == .contained || (x.run == .ended && !(here && hit.isSome)) then wrote a
      else M.seq (wrote a) (
        if here then
          (match hit with
            | some e => modDie d fun y =>
              let entries := y.entries.map fun f => if f.id = e.id then { f with arrived := true, data := a.data } else f
              { y with entries }
            | none => modDie d fun y => { y with staging := y.staging ++ [(a.die, tag, a.data)] })
        else M.iff (x.launch == a.launch && x.launch.isSome) (nodeTrap d (x.trapAt .sendUnmatched 'N' .y))))

/-! ### MG (R265, R266, R311, R327, R363) -/

/-- A monitor arm, or the look of a WAITA or a MONCLR for an entry of its row, performs at the home of the row. An arm finds a page in
motion not moved on (R332), does not arm a freed monitor, and becomes a look at the die's older entry for the row, if there is one (fn 3,
with that entry); MONCLR frees what it finds (R265, R266). DEDUCED, log entry 58.
DEDUCED, log entry 123. -/
def armHere (a : Acc) (h : Nat) : M :=
  M.look fun s =>
    let mon := a.a.toNat
    let ms := (s.chip.die a.die).monitors
    let moving := s.chip.migsWhere fun m => m.state != .waiting && inFrame m.oldAddr a.key
    let back (f : Acc → Acc) : M :=
      M.seq (modAcc a.id fun x => { f x with stage := .performed }) (schedIn a.rest (.msgRs a.id))
    let old := ms.find? fun m => m.armed && m.row == a.key && m.id != mon
    if a.fn = 1 then
      M.seq (modDie a.die fun x => { x with monitors := x.monitors.filter fun m => !(m.armed && m.row == a.key) }) (dropAcc a.id)
    else match old with
      | some m => back fun x => { x with fn := 3, b := BitVec.ofNat 64 m.id }
      | none =>
        M.seq (M.each moving fun p => abortMig p.1 p.2 6 true)
          (if ms.any fun m => m.id == mon then
            M.seq (modMon a.die mon fun m => {
              m with row := a.key, home := h, armed := true, va := a.va, fmt := a.fmt, inc := a.inc }) (back id)
          else dropAcc a.id)

/-- The home's answer to an arm reaches the die: the monitor is armed; or the WAITA goes over to the older entry of its row (R265); one whose
monitor is gone is told MONFULL. -/
def armAnswer (a : Acc) : M :=
  M.look fun s =>
    let d := a.die
    let mon := a.a.toNat
    let old := a.b.toNat
    if a.fn = 3 && (s.chip.die d).monitors.any fun m => m.id == old then
      M.seq (freeMon d mon) (modDie d fun x =>
        let turn (w : Wait) : Wait := match w with
          | .waita i lim lm pd sx => if i = mon then .waita old lim lm pd sx else w
          | _ => w
        { x with main := { x.main with waits := x.main.waits.map turn }, shadow := { x.shadow with waits := x.shadow.waits.map turn } })
    else if (s.chip.die d).monitors.any fun m => m.id == mon then
      modMon d mon fun m => if a.fn = 3 then
          { m with row := a.key, home := a.home.getD 0, armed := true, acked := true, va := a.va, fmt := a.fmt, inc := a.inc }
                            else { m with acked := true }
    else eachWait d fun sh w => match w with
      | .waita i _ _ pd sx => M.iff (i == mon) (waitaEnd d sh w sx pd 3)
      | _ => M.skip

/-- The dies a die reaches over links that are up (R363). -/
def Chip.reachOf (c : Chip) (d : Nat) : BitVec 16 :=
  (List.range 12).foldl (fun m t => if (c.hops d t).isSome then m + BitVec.ofNat 16 (2 ^ t) else m) 0
/-- Every die learns anew which dies it reaches (R363). -/
def learnReach : M := M.look fun s => M.each (List.range 12) fun d => modDie d fun x => { x with reach := s.chip.reachOf d }
/-- What far die 8 does not reach at bring-up is absent (R363). -/
def markAbsent : M :=
  M.look fun s => M.each (List.range 12) fun d => modDie d fun x => { x with present := (s.chip.reachOf 8).getLsbD d }

/-- A link state of a die (R365). -/
def setLink (d g st : Nat) : M :=
  modDie d fun x => { x with linkst := BitVec.ofNat 32 (x.linkst.toNat - fld x.linkst.toNat (8 * g) 2 * 2 ^ (8 * g) + st * 2 ^ (8 * g)) }

/-- MSG_MG. -/
def execMsgMg (kind : MgKind) (s : State) : Host.Outcome State Fault Refusal :=
  finish s (match kind with
    | .discover d g p => M.iff (peer d g != some p) (M.all [setLink d g 2,
        match peer d g with
        | some e => M.each ((List.range 4).filter fun h => peer e h == some d) fun h => setLink e h 2
        | none => M.skip,
        learnReach, markAbsent])
    | .arm acc => performAt acc false armHere
    | .armAck acc => withAcc acc fun a => M.seq (dropAcc acc) (armAnswer a)
    | .clear d row => modDie d fun x => { x with monitors := x.monitors.filter fun m => !(m.armed && m.row == row) }
    | .invAck inv d =>
      -- every access that used a dropped entry must have performed, a row in an optical queue too (R311)
      let busy : Bool := match s.chip.invals.find? fun v => v.id == inv with
        | some v =>
          (s.chip.accs.any fun a => a.die == d && v.accs.contains a.id && !a.settled && a.stage != .logged && a.stage != .failed) ||
            (s.chip.oqueue ++ s.chip.owait).any fun q => q.2.any fun r => r.die == d && v.accs.contains r.id
        | none => false
      M.seq (M.iff busy (schedIn 1 (.msgMg kind))) (M.iff (!busy) (ackInval inv d))
    | .clove d n => cloveTake d n)

/-- ROUTE_NOTICE (R103, R321): the requester learns the home of a write, and of those combined with it. -/
def execRouteNotice (acc home : Nat) (s : State) : Host.Outcome State Fault Refusal :=
  finish s (withAcc acc fun a => M.each (a :: s.chip.joined a) fun b =>
    modAcc b.id fun x => { x with noticed := true, home := some home })

/-! ### Messages under way (R356, R357, R360, R363) -/

/-- The die an access in an answer comes from: its home, or the walker that refused it. -/
def Acc.answers (a : Acc) : Nat := a.home.getD (if a.target.isVirt then a.dirDie else a.die)
/-- The die that waits for an invalidation: the one that issued it, or the control port's. -/
def Chip.asker (c : Chip) (inv : Nat) : Nat :=
  ((List.range 12).find? fun d => ((c.die d).main.waits ++ (c.die d).shadow.waits).any (· == .atcinv inv)).getD 8

/-- The dies a pending message goes between: its sender and its destination. -/
def Chip.legOf (c : Chip) (i : Instr) : Option (Nat × Nat) :=
  match i with
  | .msgRd k | .msgWr k | .msgAt k | .msgXf k | .msgMg (.arm k) => (c.acc k).bind fun a => a.home.map fun h => (a.from', h)
  | .walkerResolve k => (c.acc k).map fun a => (a.die, a.dirDie)
  | .msgRs k => (c.acc k).map fun a => (a.answers, a.die)
  | .routeNotice k _ => (c.acc k).map fun a => (a.dirDie, a.die)
  | .monitorTrigger d k => ((c.monsOf d).find? fun m => m.id == k).map fun m => (m.home, d)
  | .msgMg (.invAck k d) => some (d, c.asker k)
  | .msgMg (.clove d n) => ((c.die d).copy.nodes.find? fun m => m.id == n).map fun m => (d, 8 + m.counts.headD 0 % 4)
  | .msgMg (.clear d row) => some (row / 2 ^ 67, d)
  | .msgMg (.discover d g _) => (peer d g).map fun e => (e, d)
  | _ => none

/-- The links of the way from die `a` to die `t`: the path that is up, or the detour (R360). -/
def Chip.way (c : Chip) (t : Nat) : Nat → Nat → List (Nat × Nat)
  | 0, _ => []
  | n + 1, a =>
    if a = t then []
    else match c.path a t with
      | some p => p
      | none =>
        let g := c.firstLink a t
        match peer a g with
        | some b => (a, g) :: c.way t n b
        | none => []
/-- The way of a message crosses a link, in either direction. -/
def Chip.crosses (c : Chip) (a t d g : Nat) : Bool :=
  (c.way t 12 a).any fun q => q == (d, g) || (peer d g == some q.1 && peer q.1 q.2 == some d)

/-- Class of a message (R357). -/
def Acc.cls (a : Acc) : Nat := if a.kind.isRead then 0 else if a.kind.isAtomic then 2 else if a.kind = .send then 4 else if a.kind = .arm then 5 else 1
/-- KIND and ADDR of a row (R356). -/
def addrFields (key : Nat) : Nat × Nat :=
  let k := key / 2 ^ 64 % 8
  let off := key % 2 ^ 64
  if k = kWall then (0, off / 64 / 1536 + 1024 * (off / 64 % 1536))
  else (if k = kNear then 1 else if k = kFar then 2 else 3, rowBase off)

/-- What a pending message is on a link, but for OP, whose coding the spec does not give (R356): its header, its data beat, its byte
enables. DESIGN CHOICE, log entry 129. -/
structure Msg where
  head : Nat
  beat : Option Row
  enables : Option (BitVec 64)

/-- A header of R356. -/
def msgHead (cls src dst dinc sinc tag path : Nat) (data part : Bool) (fn region kind addr : Nat) : Nat :=
  pack [(4, cls), (4, 0), (4, src), (4, dst), (8, dinc), (8, sinc), (16, tag), (3, path), (1, data.toNat), (1, part.toNat), (3, fn), (8, 0),
    (16, region), (2, kind), (78, addr)]

/-- The message of an access from die `src` to die `dst`: a request to its walker or home, an answer, or a route notice.
DESIGN CHOICE, log entry 129. -/
def Acc.msg (c : Chip) (a : Acc) (i : Instr) (src dst : Nat) : Msg :=
  let sinc := if src = a.die then a.sinc.toNat else (c.die src).inc.toNat
  let key := match i with
    | .walkerResolve _ => memAddr (homeKind a.dirDie) a.dirDie (rowBase a.off)
    | _ => a.key
  let w := addrFields key
  -- the FN of the instruction: arms and the copy engines' reads have none
  let fn := if a.kind = .arm || a.kind.isNode then 0 else a.fn
  let form (cls dinc : Nat) (beat : Option Row) (be : Option (BitVec 64)) : Msg :=
    { head := msgHead cls src dst dinc sinc a.id a.path beat.isSome be.isSome fn a.region w.1 w.2, beat, enables := be }
  match i with
  | .msgRs _ => form 3 a.sinc.toNat (if a.stage == .performed && (a.entry.isSome || a.kind.isRead) then some a.data else none) none
  | .routeNotice _ _ => form 5 a.sinc.toNat none none
  | _ =>
    let s := a.store 0
    if a.cls = 1 then form 1 a.inc.toNat (some s.1) (if s.2 = allBytes then none else some s.2)
    else form a.cls a.inc.toNat (if a.cls = 2 || a.cls = 4 then
        some (if a.kind = .red then c.redSum a else if a.kind = .send then a.data else s.1) else none) none

/-- The message of a pending event. -/
def Chip.msgOf (c : Chip) (i : Instr) : Option Msg :=
  (c.legOf i).map fun l =>
    let plain (cls tag : Nat) : Msg :=
      ⟨msgHead cls l.1 l.2 (c.incOf l.1 l.2).toNat (c.die l.1).inc.toNat tag 0 false false 0 0 0 0, none, none⟩
    match i with
    | .msgRd k | .msgWr k | .msgAt k | .msgXf k | .msgRs k | .walkerResolve k | .routeNotice k _ | .msgMg (.arm k) => match c.acc k with
      | some a => a.msg c i l.1 l.2
      | none => plain 5 k
    | .monitorTrigger _ k => plain 3 k
    | .msgMg (.invAck k _) => plain 5 k
    | _ => plain 5 0

/-- Header and data beat of position `k` of a flit (R356). -/
def flitHead (f k : Nat) : Nat := fld f (160 * k) 160
def flitBeat (f k : Nat) : Row := BitVec.ofNat 512 (fld f (512 * (k + 1)) 512)
/-- A flit carries a message in position `k`; byte enables take the data beat of the next position. -/
def carries (f k : Nat) (m : Msg) : Bool :=
  let h := flitHead f k
  h - fld h 4 4 * 2 ^ 4 == m.head && (match m.beat with | some r => flitBeat f k == r | none => true) &&
    (match m.enables with
      | some e => k != 2 && flitHead f (k + 1) == 0 && (flitBeat f (k + 1)).extractLsb' 0 64 == e
      | none => true)

/-- A flit that passes: its CRC over the other 252 bytes is right, and no position holds a reserved class. -/
def flitGood (f : Nat) : Bool :=
  fld f 480 32 == (Config.crc32 (BitVec.ofNat 2016 (f % 2 ^ 480 + f / 2 ^ 512 * 2 ^ 480))).toNat &&
    (List.range 3).all fun k => fld (flitHead f k) 0 4 ≤ 5

/-- Row `k` of a migration's round as a WR message from Clove's far die (R356, R357). -/
def Mig.msg (m : Mig) (s : State) (f k : Nat) : Msg :=
  let c := s.chip
  let w := addrFields (m.newRow k)
  ⟨msgHead 1 f m.newDie (c.incOf f m.newDie).toNat (c.die f).inc.toNat m.id 4 true false 0 0 w.1 w.2, some (s.mem.row (m.oldRow k)), none⟩
/-- FLIT_RECEIVE: a flit whose CRC fails, or that holds a reserved class, is replayed, and its messages arrive later; so does a message of
the link, whichever it is, for each position whose header or beat is damaged. A good flit adds nothing: its messages are events of their
own. DEDUCED, log entry 152. -/
def execFlitReceive (die link : Nat) (flit : BitVec 2048) (s : State) : Host.Outcome State Fault Refusal :=
  let f := flit.toNat
  let c := s.chip
  let held (i : Instr) : Bool := match c.msgOf i with
    | some m => (List.range 3).any fun k => carries f k m
    | none => false
  let row (g : Nat) (m : Mig) (k : Nat) : Bool := g != m.newDie && (List.range 3).any fun p => carries f p (m.msg s g k)
  let n := 96 + Config.extra c.free
  let found (k : Nat) : Bool :=
    (c.events.any fun e => match c.msgOf e.2 with | some m => carries f k m | none => false) ||
      (List.range 12).any fun g => (c.die g).migs.any fun m => g != m.newDie &&
        m.batches.any fun b => (List.range b.2.2).any fun j => carries f k (m.msg s g (b.2.1 + j))
  -- positions that carry nothing that is known to be on its way
  let lost := (List.range 3).filter fun k => flitHead f k != 0 && !found k
  let here := (c.events.map (·.2)).filter fun i => !held i && (match c.legOf i with | some l => c.crosses l.1 l.2 die link | none => false)
  let picks := lost.filterMap fun k => here[(Config.freeWord (c.free + k)).toNat % here.length]?
  onDie die s (M.iff (!flitGood f) (M.all [
    modDie die fun x => { x with linkst := BitVec.ofNat 32 (
      let r := fld x.linkst.toNat (8 * link + 2) 6
      x.linkst.toNat - r * 2 ^ (8 * link + 2) + (r + 1) % 64 * 2 ^ (8 * link + 2)) },
    delayWhere (fun i => held i || picks.contains i) n,
    M.each (List.range 12) fun g => modMigs g fun l => l.map fun m => m.delayRows c.now (row g m) n,
    tickFree, tickFree, tickFree]))

/-! ### The walker (R316-R324) -/

/-- The heat an access raises (R324). -/
def Acc.heat (a : Acc) : Bool × Bool :=
  if a.kind = .arm then (false, false)
  else if a.kind == .atom || a.kind == .scrmw then (true, true) else (a.kind.isRead, !a.kind.isRead)

/-- An access leaves the walker of `h` for its frame; a write's requester is told its home (R321). -/
def route (a : Acc) (h t key tier : Nat) : M :=
  M.look fun s =>
    let c := s.chip
    let b := { a with inc := c.incOf h t, stage := .forwarded, home := some t, key := key }
    M.all [modAcc a.id fun x => { x with inc := b.inc, stage := .forwarded, home := some t, key := key },
      M.iff (a.kind.isAtomic || a.kind.writes) (schedIn (c.toDie h a.die) (.routeNotice a.id t)),
      if tier = 0 then
        -- a row of the copy engines was ready the cycle after it was formed (R236)
        let ready := if a.kind.isNode || a.kind.isContext then c.now - 3 else c.now
        board b t (key % 2 ^ 64) ready ready
      else M.look fun s' =>
        let g := scFloor b (let f := tierFigure s'.chip b h t tier; (f.1 + Config.extra s'.chip.free, f.2))
        M.all [tickFree, modAcc a.id fun x => { x with rest := g.2 },
          if h = a.die then leave b t key (g.1 - s'.chip.now) (performEvent b) else sched g.1 (performEvent b)]]

/-- WALKER_RESOLVE (R321, R322, R330, R332). -/
def execWalkerResolve (acc : Nat) (s : State) : Host.Outcome State Fault Refusal :=
  finish s (withAcc acc fun a =>
    let c := s.chip
    let h := a.dirDie
    let x := c.die h
    let fail (code : Code) (cause : Nat) : M := accFailIn (c.toDie h a.die) acc code cause
    if a.stage != .toWalker then M.skip
    else if x.inc != a.inc || !x.present then fail .targetLost 0
    else match c.leafAt h a.off with
      | none => fail .pageFault 5
      | some la =>
        let own := h == a.die
        let v := (s.leafVal h la).toNat
        let migs := c.migsWhere fun m => m.h == h && m.leaf == la && m.state != .waiting
        if a.kind == .plread || a.kind == .plwrite then
          M.all [modAcc acc fun y => { y with stage := .forwarded, home := some h, key := memAddr (homeKind h) h la,
                                               rest := if own then 8 else oneWay (c.hop h a.die) },
            M.iff (a.kind == .plwrite) (schedIn (c.toDie h a.die) (.routeNotice acc h)),
            schedIn 0 (performEvent a)]
        else if c.leafWaits h la != 0 then schedIn (c.leafWaits h la) (.walkerResolve acc)
        else if c.leafBad h la then M.seq (modAcc acc fun y => { y with key := leafRow h la }) (fail .uncorrectable 0)
        else if (x.dir.leaf la).isNone then
          M.all [bufferLeaf h la, schedIn (1 + Config.extra c.free) (.walkerResolve acc), tickFree]
        else if !leafOk v then fail .pageFault 5
        else if a.kind.isNode && fld v 36 5 != a.fmt then fail .copyFormat 0
        else if a.kind == .arm && a.fn == 0 && fld v 6 2 != 0 then
          M.seq (M.each migs fun p => abortMig p.1 p.2 6 true) (schedIn (1 + x.dir.waiting.length) (.walkerResolve acc))
        else if fld v 6 2 == 2 then
          M.seq (modAcc acc fun y => { y with stage := .atWalker }) (modDir h fun y => { y with waiting := y.waiting ++ [acc] })
        else
          let t := fld v 2 4
          let tier := fld v 0 2
          let byte := fld v 8 28 * 2 ^ 16 + a.off % 2 ^ 16
          M.seq (raiseHeat h la a.heat.1 a.heat.2) (route a h t (memAddr (tierKind tier) t (rowBase byte)) tier))

end Sys2Proof.Machine
end

