-- ==== Sys2Proof/Machine/Translate.lean ====
section
/-!
DEFINITION. Translation (R306-R315): the answers of the host, page requests, shoot-downs, and what the host and a debugger do to a
die.
-/

namespace Sys2Proof.Machine

/-! ### ATS (R309, R310) -/

/-- An access goes through translation again. -/
def retranslate (id : Nat) : M := withAcc id fun a => M.seq (modAcc id fun x => { x with stage := .start }) (beginAcc a)

/-- Accesses that waited for a free entry of the request table try again (R309). -/
def admitAts (d : Nat) : M :=
  M.look fun s =>
    let l := (s.chip.die d).atsWait
    M.seq (modDie d fun x => { x with atsWait := [] }) (M.each l retranslate)

/-- The response fills the cache of every engine that joined the request; replacement is least recently used (R308, R309). -/
def fillCaches (d vpage : Nat) (g : AtsGrant) (accs : List Acc) : M :=
  M.look fun s =>
    let e : TcEntry := { page := vpage * 2 ^ 16 / 2 ^ g.bits, bits := g.bits, pa := g.pa, rd := g.rd, wr := g.wr,
                         incs := (List.range 12).map fun t => s.chip.incOf d t }
    let ns := (accs.map Acc.cache).eraseDups
    M.each ns fun n => modDie d fun x => x.setTc n ((e :: x.tc n).take (tcSize n))

/-- ATS_RESPONSE (R309, R310): a marked request satisfies no access, and each asks again. -/
def execAtsResponse (die vpage : Nat) (grant : Option AtsGrant) (s : State) : Host.Outcome State Fault Refusal :=
  onDie die s (match (s.chip.die die).ats.find? fun r => r.page == vpage with
    | none => M.skip
    | some r =>
      let accs := r.accs.filterMap fun i => (s.chip.acc i).filter fun a => a.stage == .ats
      M.all [modDie die fun x => { x with ats := x.ats.filter fun q => q.page != vpage },
        match grant with
        | some g =>
          if r.marked then M.each accs fun a => retranslate a.id
          else M.all [fillCaches die vpage g accs, M.each accs fun a => retranslate a.id, replayLogs]
        | none =>
          if r.marked then M.each accs fun a => retranslate a.id
          else M.each accs fun a => accFail a.id .pageFault 1,
        admitAts die])

/-- The access waits for the host's answer to a page request (R344). -/
def Acc.asking (a : Acc) : Bool := a.stage == .failed && a.code == .pageFault && a.cause == 1 && !a.asked

/-- PAGE_REQUEST_GRANT (R344): the host grants the page, and in the next cycle the access asks for its translation again; or it refuses.
An access whose page has been invalidated meanwhile asks again whatever the answer (R310, R353). -/
def execPageRequestGrant (die vpage : Nat) (granted : Bool) (s : State) : Host.Outcome State Fault Refusal :=
  let accs := s.chip.accs.filter fun a => a.die == die && a.asking && a.va / 2 ^ 16 == vpage
  onDie die s (M.each accs fun a =>
    if granted || a.marked then M.seq (modAcc a.id fun x => { x with asked := !a.marked, marked := false, stage := .granted })
      (schedIn 1 (.msgRs a.id))
    else M.seq (modAcc a.id fun x => { x with asked := true }) (schedIn 0 (.msgRs a.id)))

/-! ### Shoot-downs (R310-R312) -/

/-- Log2 of the bytes an invalidation covers; none for all (R300). -/
def invalBits (size : Nat) : Option Nat := match size with | 0 => some 16 | 1 => some 21 | 2 => some 30 | _ => none
/-- The invalidation covers a virtual address, or a page of 2^bits bytes. -/
def covers (va size a bits : Nat) : Bool :=
  match invalBits size with
  | none => true
  | some b => a / 2 ^ max b bits == va / 2 ^ max b bits

/-- The invalidation covers an entry of a cache. -/
def TcEntry.covered (e : TcEntry) (va size : Nat) : Bool := covers va size (e.page * 2 ^ e.bits) e.bits
/-- What went by a virtual address used an entry of die `d` that the invalidation covers. -/
def Chip.usedBy (c : Chip) (d va size v : Nat) : Bool :=
  covers va size v 16 || [0, 1, 2, 3].any fun n => ((c.die d).tc n).any fun e => e.covered va size && v / 2 ^ e.bits == e.page

/-- A shoot-down of the named dies: entries are dropped, outstanding requests marked, and each die acknowledges once what used a dropped
entry has performed (R311, R312). DEDUCED, log entry 67. -/
def shootDown (id va size : Nat) (dies : List Nat) (host : Bool) (toward : Nat) : M :=
  M.look fun s =>
    let c := s.chip
    let away := (c.accs.filter fun a => dies.contains a.die && (a.stage == .toWalker || a.stage == .atWalker || a.stage == .forwarded) &&
      (match a.target with | .virt b _ => c.usedBy a.die va size a.va || c.usedBy a.die va size b | _ => false)).map (·.id) ++
      (((c.oqueue ++ c.owait).map (·.2)).flatten.filter fun r => dies.contains r.die && r.vas.any (c.usedBy r.die va size)).map (·.id)
    let atOnce := dies.filter fun d => (c.die d).gated || !(c.die d).present
    let rest := dies.filter fun d => !atOnce.contains d
    M.all [
      M.each dies fun d => modDie d fun x =>
        let keep (l : List TcEntry) : List TcEntry := l.filter fun e => !e.covered va size
        let ats := x.ats.map fun r => if covers va size (r.page * 2 ^ 16) 16 then { r with marked := true } else r
        { x with tcCopy := keep x.tcCopy, tcGather := keep x.tcGather, tcFabric := keep x.tcFabric, tcSeq := keep x.tcSeq, ats },
      M.mod fun c =>
        let accs := c.accs.map fun a => if dies.contains a.die && a.asking && covers va size a.va 16 then { a with marked := true } else a
        { c with accs },
      M.iff (!rest.isEmpty) (M.mod fun c => { c with invals := c.invals ++ [⟨id, rest, away, host⟩] }),
      M.each rest fun d => schedIn (if d = toward then 1 else 2 * oneWay (c.hop toward d)) (.msgMg (.invAck id d))]

/-- ATCINV (R300): the die holds until every named die has acknowledged. -/
def execAtcinv (q sx : Nat) (s : State) : Host.Outcome State Fault Refusal :=
  finish s (privileged (dieMask (s.cx.rs (sx + 1)) fun m => M.look fun t =>
    let id := t.chip.nextId
    M.iff (m != 0) (M.all [M.mod fun c => { c with nextId := id + 1 },
      shootDown id (s.cx.rs sx).toNat q ((List.range 12).filter fun d => bitOf m d) false t.cd, addWait (.atcinv id)])))

/-- ATS_INVALIDATION (R311): the host names every compute die and every house sequencer. -/
def execAtsInvalidation (va size : Nat) (s : State) : Host.Outcome State Fault Refusal :=
  let id := s.chip.nextId
  finish s (M.seq (M.mod fun c => { c with nextId := id + 1 }) (shootDown id va size (List.range 12) true 8))

/-! ### The host and the debugger -/

/-- DEBUGGER_HALT (R312): a halted die issues nothing, and its caches go on. -/
def execDebuggerHalt (die : Nat) (on : Bool) (s : State) : Host.Outcome State Fault Refusal :=
  onDie die s (modDie die fun x => { x with halted := on })

/-- POWER_GATING (R312): the caches are emptied, and outstanding shoot-downs are acknowledged at once. -/
def execPowerGating (die : Nat) (on : Bool) (s : State) : Host.Outcome State Fault Refusal :=
  onDie die s (M.seq
    (modDie die fun x => if on then { x with gated := true, tcCopy := [], tcGather := [], tcFabric := [], tcSeq := [] }
                         else { x with gated := false })
    (M.iff on (M.each (s.chip.invals.map (·.id)) fun i => ackInval i die)))

end Sys2Proof.Machine
end

