-- ==== Sys2Proof/Machine/System.lean ====
section
/-!
DEFINITION. System state (R277-R287, R298-R305): SEM and the control ports, package CSRs, region control blocks, firmware events and
side-log replay.
-/

namespace Sys2Proof.Machine

/-! ### SEM and package CSRs (R279, R280, R285) -/

/-- PACKAGE_CSR_UPDATE (R279): every copy takes the value; a region table entry starts a replay (R346). -/
def execPackageCsrUpdate (die csr : Nat) (val : BitVec 64) (s : State) : Host.Outcome State Fault Refusal :=
  onDie die s (M.all [
    M.iff (csr == 0x10A && val == 0 && s.chip.semOwner == semId die) (fwev 5),
    M.mod fun c => c.writePackage (semId die) csr val, M.iff (0x200 ≤ csr && csr < 0x300) replayLogs])

/-- A port's read of SEM, by id 1 or 2, answers the value before it and acquires a free SEM (R280). DESIGN CHOICE, log entry 116. -/
def portSemRead (reader : Nat) : M := M.mod fun c =>
  { c.acquire reader with hostData := SMap.set 0 c.hostData (reader - 1) (BitVec.ofNat 512 c.sem.toNat) }
/-- What a control port does has an effect from stage 6 of bring-up on, when the ports have links (R386, R387). -/
def portUp (m : M) : M := M.look fun s => M.iff (s.chip.stage == 6) m
/-- A read at port `p`; of a part whose bring-up has stopped, that of far die 8 answers `r` (R387). -/
def portRead (p : Nat) (r : Row) (m : M) : M :=
  M.look fun s =>
    if s.chip.stage = 6 then m
    else M.iff (s.chip.berr != 0 && p == 0) (M.mod fun c => { c with hostData := SMap.set 0 c.hostData 0 r })
/-- SEM_READ (R280). DESIGN CHOICE, log entry 116. -/
def execSemRead (reader : Nat) (s : State) : Host.Outcome State Fault Refusal :=
  finish s (portRead (reader - 1) 0 (portSemRead reader))
/-- A write of 0 to SEM by the owner frees it (R280). -/
def portSemWrite (writer : Nat) (val : BitVec 64) : M := M.iff (val == 0) (freeSem writer)
/-- SEM_WRITE (R280). -/
def execSemWrite (writer : Nat) (val : BitVec 64) (s : State) : Host.Outcome State Fault Refusal :=
  finish s (portUp (portSemWrite writer val))
/-- CONTROL_PORT_LINK_RESET (R280): port 0 or 1 is that of far die 8 or 9. -/
def execControlPortLinkReset (port : Nat) (s : State) : Host.Outcome State Fault Refusal := finish s (freeSem (1 + port))
/-- SV_DROP (R17). -/
def execSvDrop (_die _port : Nat) (s : State) : Host.Outcome State Fault Refusal :=
  finish s (M.mod fun c => { c with svdrop := c.svdrop + 1 })

/-! ### Region control blocks (R281, R282, R298, R299) -/

/-- Memory address of a package address, through the region table as far die 8 holds it and the directory (R306). -/
def State.resolvePa (s : State) (pa : Nat) : Option Nat :=
  ((s.chip.die 8).regionOf pa).bind fun ho => (s.chip.leafAt ho.1 ho.2).bind fun la =>
    let v := (s.leafVal ho.1 la).toNat
    if leafOk v then some (memAddr (tierKind (fld v 0 2)) (fld v 2 4) (fld v 8 28 * 2 ^ 16 + ho.2 % 2 ^ 16)) else none

/-- Cycles after which the part's own access to a package address is made again: its leaf, or its page, is in a pseudo-channel that takes
no request (R379, R384), or the page is frozen (R330); 0: it is made. -/
def State.paHeld (s : State) (pa : Nat) : Nat :=
  match (s.chip.die 8).regionOf pa with
  | none => 0
  | some (h, off) => match s.chip.leafAt h off with
    | none => 0
    | some la =>
      if s.chip.leafWaits h la != 0 then s.chip.leafWaits h la
      else if fld (s.leafVal h la).toNat 6 2 == 2 then 1
      else match s.resolvePa pa with
        | some a => s.chip.rowDelay a
        | none => 0
/-- The row at a package address, unless it has no usable leaf or reads uncorrectably (R350, R382).
DESIGN CHOICE, log entry 158. -/
def State.paRow (s : State) (pa : Nat) : Option Nat :=
  let bad := match (s.chip.die 8).regionOf pa with
    | some (h, off) => (match s.chip.leafAt h off with | some la => s.chip.leafBad h la | none => false)
    | none => false
  (s.resolvePa pa).filter fun a => !bad && !s.chip.isBad a
/-- Cycles after which a read of a region's control block is made again. -/
def State.blockHeld (s : State) (n : Nat) : Nat :=
  ((List.range 4).map fun k => s.paHeld (s.chip.rtbase.toNat + 256 * n + 64 * k)).foldl max 0

/-- The control block of a region in package memory. -/
def State.blockAt (s : State) (n : Nat) : Option (BitVec 2048) :=
  let row (k : Nat) : Option Row := (s.paRow (s.chip.rtbase.toNat + 256 * n + 64 * k)).map s.mem.row
  match row 0, row 1, row 2, row 3 with
  | some a, some b, some c, some d => some (d ++ c ++ b ++ a)
  | _, _, _, _ => none

/-- A region and its ancestors, as the blocks in force link them. -/
def Chip.chain (c : Chip) : Nat → Nat → List Nat
  | 0, n => [n]
  | k + 1, n => if n = 0 then [0] else n :: Chip.chain c k (fld (c.block n) 0 16)

/-- A range lies within another. -/
def within (lo n plo pn : Nat) : Bool := n == 0 || (plo ≤ lo && lo + n ≤ plo + pn)

/-- The block of region `n`, set in `c`, is valid (R282). DEDUCED, log entry 97. -/
def Chip.blockOk (c : Chip) (n : Nat) : Bool :=
  let b := c.block n
  let p := fld b 0 16
  fld b 54 2 == 0 && fld b 101 3 == 0 && fld b 229 283 == 0 && fld b 1247 801 == 0 && fld b 52 2 != 3 && fld b 76 4 == 0 &&
  fld b 80 10 + fld b 90 11 ≤ 1024 && fld b 104 16 + fld b 120 17 ≤ 65536 && fld b 1216 16 + fld b 1232 15 ≤ 16384 &&
  (c.chain 16 n).getLast? == some 0 &&
  (n == 0 || (
    fld b 64 16 &&& c.rdies p == fld b 64 16 && within (fld b 80 10) (fld b 90 11) (c.banklo p) (c.bankn p) &&
    within (fld b 104 16) (fld b 120 17) (c.codelo p 0) (c.coden p 0) && within (fld b 1216 16) (fld b 1232 15) (c.codelo p 8) (c.coden p 8) &&
    fld b 137 7 &&& c.cal p == fld b 137 7 && fld b 144 8 ≤ c.opt p))

/-- The row at a package address is read, or written, through the directory: its leaf is hotter (R324). -/
def heatAt (pa : Nat) (write : Bool) : M :=
  M.look fun s => match (s.chip.die 8).regionOf pa with
    | none => M.skip
    | some (h, off) => match s.chip.leafAt h off with
      | none => M.skip
      | some la => raiseHeat h la (!write) write

/-- Load a region's block (R298, R299): 0 loaded, 2 refused. What a launch holds of its region changes at its next compute phase, not here.
DEDUCED, log entry 82. -/
def loadBlock (n : Nat) (k : Nat → M) : M :=
  M.look fun s =>
    match s.blockAt n with
    | none => k 2
    | some b =>
      let c := { s.chip with regions := SMap.set 0 s.chip.regions n b }
      let keeps := s.chip.launches.all fun l => !(l.active && l.region == n) || l.dies.all (bitOf (c.rdies n))
      M.seq (heatAt (s.chip.rtbase.toNat + 256 * n) false) (if !c.blockOk n || !keeps then k 2
      else M.seq (M.mod fun c => { c with
          rloaded := if c.rloaded.contains n then c.rloaded else c.rloaded ++ [n],
          regions := SMap.set 0 c.regions n b,
          loaded := c.loaded.filter fun p => !(c.chain 16 p.1).contains n })
        (k 0))

/-- The cycle in which a load of a block's rows from a die arrives, unloaded (R250). -/
def State.blockArrival (s : State) (d n : Nat) : Nat :=
  let c := s.chip
  let pa := c.rtbase.toNat + 256 * n
  match (c.die d).regionOf pa with
  | none => c.now
  | some (h, off) =>
    let t := c.now + c.toDie d h
    match c.leafAt h off with
    | none => t
    | some la =>
      let v := (s.leafVal h la).toNat
      let e := fld v 2 4
      let a := blankAcc c d .ldRow .beyond
      if fld v 0 2 = 0 then
        ((c.positions a e (c.stackAt e (fld v 8 28 * 2 ^ 16))).map fun p => posStart p t).min?.getD t + nearFigure d h e + 190
      else let f := tierFigure { c with now := t } a h e (fld v 0 2); f.1 + f.2

/-- RCBLD (R298). -/
def execRcbld (sd sa : Nat) (s : State) : Host.Outcome State Fault Refusal :=
  let n := fld (s.cx.rs sa).toNat 0 16
  finish s (privileged (
    if s.chip.semOwner != semId s.cd then laterS 1 sd 1
    else M.seq (addWait (.rcbld (s.blockArrival s.cd n + 64 + Config.extra s.chip.free) (s.physReg sd) n)) tickFree))

/-! ### Firmware events (R305) -/

/-- FIRMWARE_EVENT: the event's bit is set on every die. -/
def execFirmwareEvent (bit : Nat) (s : State) : Host.Outcome State Fault Refusal :=
  finish s (M.mod fun c => { c with dies := c.dies.map fun x => { x with fwnew := x.fwnew ||| BitVec.ofNat 8 (2 ^ bit) } })

/-- FWAIT (R305): events of the issue cycle itself are not yet seen, and stay pending. -/
def execFwait (_q sx : Nat) (s : State) : Host.Outcome State Fault Refusal :=
  let w := (s.cx.rs sx).toNat
  let lim := fld w 8 24
  let hit := s.me.fwev &&& BitVec.ofNat 8 (fld w 0 8)
  let lm := limitOf s.chip.now lim
  finish s (privileged (
    if hit != 0 || lim = 0 then M.seq (laterS 1 sx (hit.setWidth 64)) (modMe fun x => { x with fwev := x.fwev &&& ~~~hit })
    else M.seq (addWait (.fwait (fld w 0 8) lm (s.physReg sx))) (schedLimit lm (.fwaitTimeout s.cd))))

/-- What a held FWAIT finds: shared bits, of events of the present cycle too, or the limit. DEDUCED, log entry 83. -/
def endFwait (d : Nat) (sh : Bool) (w : Wait) (mask sx : Nat) (expired : Bool) : M :=
  M.look fun s =>
    let hit := (s.chip.die d).pend &&& BitVec.ofNat 8 mask
    if hit != 0 then M.all [endWait d sh w, landS d sh sx (hit.setWidth 64),
      modDie d fun x => { x with fwev := x.fwev &&& ~~~hit, fwnew := x.fwnew &&& ~~~hit }]
    else M.iff expired (M.seq (endWait d sh w) (landS d sh sx 256))

/-- FWAIT_TIMEOUT (R305). -/
def execFwaitTimeout (die : Nat) (s : State) : Host.Outcome State Fault Refusal :=
  onDie die s (eachWait die fun sh w => match w with
    | .fwait mask lm sx => endFwait die sh w mask sx (match lm with | some t => t ≤ s.chip.now | none => false)
    | _ => M.skip)

/-! ### Replaying a side log (R304) -/

/-- SLOGREPLAY (R304): the die holds while the named log replays from its head. DEDUCED, log entry 117. -/
def execSlogreplay (_q sx : Nat) (s : State) : Host.Outcome State Fault Refusal :=
  let w := (s.cx.rs sx).toNat
  let d := fld w 0 4
  let u := fld w 4 3
  finish s (privileged (
    if 12 ≤ d || 3 ≤ u || ((s.chip.die d).log u).isEmpty then laterS 1 sx 0
    else M.seq (addWait (.replay d u (((s.chip.die d).log u).map (·.acc)) (s.physReg sx))) (schedIn 0 (.sideLogReplay d u))))

end Sys2Proof.Machine
end

