-- ==== Sys2Proof/Machine/Superstep.lean ====
section
/-!
DEFINITION. Supersteps (R36-R39, R160): SSEND, the package barrier and the communication phase.
-/

namespace Sys2Proof.Machine

/-- SSEND (R160): the party waits at the package barrier; the array tests itself (R214). -/
def execSsend (lc : Nat) (s : State) : Host.Outcome State Fault Refusal :=
  finish s (computeOnly (M.look fun t =>
    need (!t.me.comm) .wrongPhase (M.all [
      modMe fun x => { x with lc, run := if x.launch.isSome then .barrier else x.run }, ssendTest,
      match t.me.launch with
        | none => M.skip
        | some l => M.seq (modLaunch l fun k => { k with atBarrier := k.atBarrier ++ [t.cd] }) (barrierCheck l)])))

/-- A party enters its communication phase: phase cycle 0 is its next program cycle (R36), pending router entries apply (R362),
and the wait it leaves was a pre-emption point (R49). -/
def beginPhase (d : Nat) : M :=
  modDie d fun x => { x with
    run := .running, comm := true, phaseAt := x.main.prog, router := x.routerNext,
    boundary := some x.main.prog,
    main := { x.main with nextIssue := x.main.prog, ptimed := x.main.ptimed ++ [(x.main.prog + x.lc, .commPhaseEnd d)] } }

/-- PACKAGE_BARRIER_COMPLETE (R36): every party resumes in this package cycle; a launch switched out waits for its restoration. -/
def execPackageBarrierComplete (launch : Nat) (s : State) : Host.Outcome State Fault Refusal :=
  finish s (match s.chip.launches.find? fun l => l.id == launch with
    | none => M.skip
    | some l =>
      let ds := l.atBarrier
      M.iff (!ds.isEmpty && (ds.all fun d => (s.chip.die d).launch == some launch && (s.chip.die d).run == .barrier))
        (M.seq (modLaunch launch fun k => { k with atBarrier := [] }) (M.each ds beginPhase)))

/-- The transfers of the phase that a party sends or receives, as far as they have been issued, have landed: timed ones, and the rows of its
OSENDs in the phase (R37, R38). DEDUCED, log entry 130. -/
def phaseDone (s : State) (d : Nat) : Bool :=
  let x := s.chip.die d
  !(s.chip.accs.any fun a => a.launch == x.launch && (
      (a.kind == .send && (a.die == d || a.home == some d) && (a.stage == .start || a.stage == .forwarded)) ||
      (a.kind == .osend && a.die == d && !a.sh && x.phaseAt ≤ a.prog))) &&
    !((s.chip.oqueue ++ s.chip.owait).any fun q => q.2.any fun r => r.die == d && r.launch == x.launch && x.phaseAt ≤ r.prog) &&
    !(x.entries.any fun e => match e.what with | .recv _ _ _ _ => !e.arrived && e.fault.isNone | _ => false)

/-- A new compute phase of a launch starts on a party: its region's present values hold there, on the launch's house sequencers, and for the
launch (R299). DEDUCED, log entry 82. -/
def newTerms (d : Nat) : M :=
  M.look fun s =>
    let c := s.chip
    let take (k : Nat) : M := modDie k fun y => { y with terms := y.terms.next (c.terms (c.die d).rgnId) }
    M.seq (take d) (match (c.launchOf d) with
      | none => M.skip
      | some l => M.seq (modLaunch l.id fun k => { k with terms := k.terms.next (c.terms k.region) })
        (M.each ((l.houses.map (·.1)).filter fun h => (c.die h).launch == some l.id) take))

/-- The next compute phase starts (R37): staged rows that no RECV matched are dropped with a fault (R263); it is a pre-emption
point (R49), and the budget is that of the blocks now loaded (R299). -/
def endPhase (d : Nat) : M :=
  M.look fun s =>
    let x := s.chip.die d
    let left := !x.staging.isEmpty
    M.all [modDie d fun y => { y with
        comm := false, ssnum := y.ssnum + 1, sent := [], recvd := [], staging := [], boundary := some y.main.nextIssue,
        main := { y.main with waits := y.main.waits.filter (· != .phaseEnd) } },
      newTerms d, M.iff left (nodeTrap d (x.trapAt .sendUnmatched 'N' .y))]

/-- COMM_PHASE_END (R37): the party has run Lc phase cycles; it holds while transfers are still to land. -/
def execCommPhaseEnd (die : Nat) (s : State) : Host.Outcome State Fault Refusal :=
  onDie die s (if phaseDone s die then endPhase die
    else modDie die fun x => { x with main := { x.main with waits := x.main.waits ++ [.phaseEnd] } })

end Sys2Proof.Machine
end

