-- ==== Sys2Proof/Machine/Launch.lean ====
section
/-!
DEFINITION. Launches (R288-R295): start vectors, the launch path and its image (R142), completion words, scheduling, pre-emption and
the saving and restoring of contexts.
-/

namespace Sys2Proof.Machine

/-! ### Start vectors (R288, R289) -/

/-- ENTRY of logical die `d`, HENT of house sequencer 8 + `h`, and the other fields of a start vector. -/
def svEntry (v : Nat) (d : Nat) : Nat := fld v (32 * d) 32
def svHent (v : Nat) (h : Nat) : Nat := fld v (448 + 16 * h) 16
def svRegion (v : Nat) : Nat := fld v 256 16

/-- The vector with ENTRY0-7, FLAGS, MODES and HENT of the region's template, when ENTRY0 asks for them. -/
def svWith (v t : Nat) : Nat :=
  if svEntry v 0 = 0xFFFFFFFE then
    fld t 0 256 + 2 ^ 256 * svRegion v + 2 ^ 272 * fld t 272 32 + 2 ^ 304 * fld v 304 144 + 2 ^ 448 * fld t 448 64
  else v

/-- Logical dies whose ENTRY is used, and far dies whose HENT is used. -/
def svUsed (v : Nat) : List Nat := (List.range 8).filter fun d => svEntry v d != 0xFFFFFFFF
def svHouses (v : Nat) : List Nat := (List.range 4).filter fun h => svHent v h != 0xFFFF

/-- Compute dies of a device of a view (R284). -/
def viewSize (view : Nat) : Nat := match view with | 0 => 8 | 1 => 4 | _ => 1

/-- The fields that must be zero are, DEV lies in the view, and the entries used fit it (R289). DEDUCED, log entry 77. -/
def svOk (v view : Nat) : Bool :=
  fld v 275 13 == 0 && fld v 304 16 == 0 &&
  (match view with | 0 => fld v 272 3 == 0 | 1 => fld v 272 3 < 2 | _ => true) &&
  ((svUsed v).all fun d => d < viewSize view) && !((svUsed v).isEmpty && (svHouses v).isEmpty)

/-- Two ranges share an index. -/
def overlap (a n b m : Nat) : Bool := n != 0 && m != 0 && a < b + m && b < a + n

/-- Two launches' ranges share a bundle or a bank of a die. -/
def Terms.clash (t u : Terms) (d : Nat) : Bool :=
  overlap (t.codeBase d) (t.codeSize d) (u.codeBase d) (u.codeSize d) || (d < 8 && overlap t.banklo t.bankn u.banklo u.bankn)
/-- Another launch on a shared die holds an overlapping bank or code range (R289). -/
def Chip.rangeClash (c : Chip) (r : Nat) (dies : List Nat) : Bool :=
  c.launches.any fun l => l.state != .ended && l.dies.any fun d => dies.contains d && (c.terms r).clash (c.holds l) d

/-- A launch that runs on a die uses a mode that is not available there (R215). -/
def Chip.modesLost (c : Chip) (modes : Nat) (parties : List Nat) : Bool :=
  let m := if modes = 0 then 0x8000 else modes
  parties.any fun d => (List.range 16).any fun k => bitOf m k && !(c.die d).matrix.avail k
/-- The fault domain of a launch: what it holds, once placed, or held last. -/
def Chip.domainOf (c : Chip) (l : Launch) : Nat := if l.placed then l.terms.fdom else c.fdom l.region

/-- The status with which a vector is refused at entry, 0 for none; the image is checked when it has been read (R289).
DEDUCED, log entry 78. DEDUCED, log entry 79. -/
def Chip.svCheck (c : Chip) (r v : Nat) (parties houses : List Nat) : Nat :=
  if 64 ≤ c.queued then 1
  else if !svOk v (c.rview r) then 2
  else if !(r == 0 || c.rloaded.contains r) || !c.blockOk r || SMap.get 0 c.rstatus r == 4 ||
    (c.launches.any fun l => l.status == 8 && c.domainOf l == c.fdom r) then 3
  else if (parties ++ houses).any (fun d => !bitOf (c.rdies r) d || !(c.die d).present) || (!houses.isEmpty && !c.effSys 16 r) then 4
  else if c.modesLost (fld v 288 16) parties then 5
  else if c.rangeClash r (parties ++ houses) then 6
  else if c.slice r = 0 then 9
  else 0

/-- STATUS of a region as its launches give it, unless its domain is faulted (R281, R349). -/
def refreshStatus (r : Nat) : M :=
  M.look fun s =>
    let has (p : LState → Bool) : Bool := s.chip.launches.any fun l => l.region == r && p l.state
    M.iff (SMap.get 0 s.chip.rstatus r != 4) (setStatus r (
      if has fun t => t == .running || t == .preempting then 2 else if has (· == .preempted) then 3
      else if has (· == .queued) then 1 else 0))

/-- The image rows a launch needs are read through translation (R290, R307). DEDUCED, log entry 74. -/
def imageReq (l : Launch) (k : Nat) : M :=
  M.look fun s =>
    startAcc { blankAcc s.chip (8 + l.port % 2) .image (.virt (s.chip.imgbase l.region + 64 * k) 0) with
      path := 0, a := BitVec.ofNat 64 k, region := l.region, launch := some l.id }

/-- A launch ends without running: its completion word carries the status (R289, R291). -/
def refuse (id status : Nat) : M :=
  M.look fun s =>
    M.all [modLaunch id fun l => { l with state := .ended, status }, M.mod fun c => { c with refused := c.refused + 1 },
      M.each (s.chip.launches.filter fun l => l.id == id) fun l => refreshStatus l.region, schedIn 0 (.completionWord id)]

/-- A start vector enters the launch queue, or is refused (R288, R289). Ports open at stage 6 of bring-up (R386). -/
def startVector (port : Nat) (sv : BitVec 512) : M := fun s =>
  let c := s.chip
  let r := svRegion sv.toNat
  let v := svWith sv.toNat (fld (c.block r) 512 512)
  let view := c.rview r
  let dev := fld v 272 3
  let parties := (svUsed v).map fun d => (physDie view dev d, svEntry v d)
  let houses := (svHouses v).map fun h => (8 + h, svHent v h)
  let st := c.svCheck r v (parties.map (·.1)) (houses.map (·.1))
  let l : Launch := {
    id := c.nextId, port, region := r, dev, parties, houses, modes := fld v 288 16, args := fld v 320 64,
    cw := fld v 384 64 / 8 * 8, arrived := c.now, state := .queued, placed := false, terms := {}, askedAt := 0, waited := 0, slices := 0, atBarrier := [],
    barrierP := 0, endedDies := [], records := 0, status := 0, word := 0, saved := [], img := [], path := 0, issueAt := 0, sliceAt := 0 }
  (M.iff (c.stage == 6 && c.cattrip.isNone) (M.all [
    M.mod fun c => { c with launches := c.launches ++ [l], nextId := c.nextId + 1 },
    M.iff (st != 1) (fwev 0),
    if st = 0 then M.seq (refreshStatus r) (imageReq l 0) else refuse l.id st])) s

/-- START (R288). -/
def execStart (port : Nat) (sv : BitVec 512) (s : State) : Host.Outcome State Fault Refusal := finish s (startVector port sv)

/-! ### The image (R142, R290) -/

/-- A section: kind, die, index, rows, first row. -/
structure Section where
  kind : Nat
  die : Nat
  index : Nat
  count : Nat
  off : Nat

/-- Row `k` of the image, as read. -/
def Launch.row (l : Launch) (k : Nat) : Nat := ((l.img.find? fun p => p.1 == k).map (·.2.toNat)).getD 0
def Launch.has (l : Launch) (k : Nat) : Bool := l.img.any fun p => p.1 == k
/-- NSEC. -/
def Launch.nsec (l : Launch) : Nat := fld (l.row 0) 48 16
/-- The die that an image calls `k`: dies below 8 are logical, as the entries of its template are (R284, R288); 255 is none.
DEDUCED, log entry 76. -/
def Launch.imageDie (l : Launch) (c : Chip) (k : Nat) : Nat :=
  if k < 8 then (if k < viewSize (c.rview l.region) then physDie (c.rview l.region) l.dev k else 255) else k
/-- The section table. -/
def Launch.sections (l : Launch) (c : Chip) : List Section :=
  (List.range l.nsec).map fun k =>
    let e := fld (l.row (1 + k / 4)) (128 * (k % 4)) 128
    ⟨fld e 0 8, l.imageDie c (fld e 8 8), fld e 16 16, fld e 32 32, fld e 64 64⟩
/-- A section the launch path applies or copies. -/
def Section.loads (x : Section) : Bool := 1 ≤ x.kind && x.kind ≤ 5
/-- The image passes R142 and fits the vector and the code ranges (R289). -/
def Launch.imageOk (l : Launch) (c : Chip) : Bool :=
  ((l.sections c).all fun x => 1 ≤ x.kind && x.kind ≤ 7 &&
    (!x.loads || (l.dies.contains x.die && (x.kind != 1 || x.index + x.count ≤ (c.holds l).codeSize x.die)))) &&
    ((List.range 16).all fun d => !bitOf (fld (l.row 0) 64 16) d || l.dies.contains (l.imageDie c d))

/-- The code of a die must be copied (R290, R351). -/
def Chip.stale (c : Chip) (l : Launch) (d : Nat) : Bool := !c.loaded.contains (l.region, d)
/-- The rows of the sections that a placement reads. -/
def Launch.wanted (l : Launch) (c : Chip) : List Nat :=
  (((l.sections c).filter fun x => x.loads && (x.kind != 1 || l.stale.contains x.die)).map fun x =>
    (List.range x.count).map (x.off + ·)).flatten.eraseDups

/-- Cycles beyond 1,440 before the first issue (R290). -/
def Launch.extra (l : Launch) (c : Chip) : Nat :=
  let rows (d : Nat) : Nat := (((l.sections c).filter fun x => 2 ≤ x.kind && x.kind ≤ 5 && x.die == d).map (·.count)).sum
  ((l.dies.map rows).foldl Nat.max 0 - 2048) +
    (l.stale.map (c.holds l).codeSize).foldl Nat.max 0

/-- Some rows of the image, as one number. -/
def Launch.rows (l : Launch) (off n : Nat) : Nat := digits 512 (fun k => l.row (off + k)) n

/-- Apply a section to its die; the groups it loads count as written (R290, R294). DEDUCED, log entry 81. -/
def applySection (l : Launch) (x : Section) : M :=
  let d := x.die
  let mark (y : Die) (g : Nat) : BitVec 104 := y.dirty ||| BitVec.ofNat 104 (2 ^ g)
  match x.kind with
  | 1 => M.each (List.range x.count) fun k =>
      M.write ⟨memAddr kCode d (64 * (l.terms.codeBase d + x.index + k)), allBytes, BitVec.ofNat 512 (l.row (x.off + k))⟩
  | 2 => M.each (List.range (x.count / 23)) fun j => modDie d fun y => { y with
      xw := SMap.set 0 y.xw (x.index + j) (BitVec.ofNat 11776 (l.rows (x.off + 23 * j) 23)), dirty := mark y (40 + (x.index + j) / 64) }
  | 3 => M.each (List.range (x.count / 4)) fun j => modDie d fun y => { y with matrix := { y.matrix with
      ep := SMap.set 0 y.matrix.ep (x.index + j) (BitVec.ofNat 2048 (l.rows (x.off + 4 * j) 4)), dirty := y.matrix.dirty ||| 32 } }
  | 4 => M.each (List.range (x.count / 2)) fun j => modDie d fun y => { y with
      main := { y.main with tl := SMap.set 0 y.main.tl (x.index + j) (BitVec.ofNat 768 (l.rows (x.off + 2 * j) 2)) },
      dirty := mark y ((x.index + j) / 64) }
  | 5 => M.look fun s =>
      let r := (SMap.get 0 (s.chip.die d).main.tl x.index)
      M.each (List.range x.count) fun k =>
        let p := rowPos r (k : Int) 0
        let row := BitVec.ofNat 512 (l.row (x.off + k))
        if Rec.space r = 1 then M.iff (Rec.die r < 8 && rowIn p.row) (M.write ⟨wallAddr (Rec.die r) p.bank p.row.toNat, allBytes, row⟩)
        else if Rec.space r != 0 then M.skip
        else if 8 ≤ d then
          M.iff (0 ≤ p.row && p.row < 256) (M.write ⟨memAddr kScratch d (64 * (p.bank % 16 * 256 + p.row.toNat)), allBytes, row⟩)
        else M.iff (rowIn p.row) (M.write ⟨wallAddr d p.bank p.row.toNat, allBytes, row⟩)
  | _ => M.skip

/-- The launch state of a party or house program (R290, R219, R274): the hardware's own condition stays. DEDUCED, log entry 14. -/
def Die.start (x : Die) (c : Chip) (l : Launch) (d entry : Nat) : Die :=
  { x with
    main := { pc := entry, s := SMap.set 0 (SMap.set 0 [] 1 (BitVec.ofNat 64 l.args)) 2 (BitVec.ofNat 64 l.dev),
              waits := x.main.waits.filter Wait.isGovernor },
    inShadow := false, run := .running, trap := none, trapQ := [], terms := l.terms, dirty := 0, kept := 0, nodeFlags := 0, nodeDue := 0,
    nodeArvs := [], comm := false, lc := 0, phaseAt := 0, fpctl := {},
    sbchk := 0, holdcnt := 0, ssnum := 0, faultrec := 0, sys := c.effSys 16 l.region, rgnId := l.region, view := c.rview l.region,
    dev := l.dev, tcause := 0, heldFor := 0, boundary := if d < 8 then some 0 else none, barriers := [], queues := [], entries := [],
    monitors := [], sent := [], recvd := [], staging := [], fences := [], xw := [], solver := none,
    matrix := { tile := { gen := some c.free }, accGen := some c.free, fenced := x.matrix.fenced, spareFor := x.matrix.spareFor },
    mace := {}, copy := {}, power := { x.power with govcyc := 0 } }

/-- The code range of a die is loaded, bundles that no section gives as zeros (R290). -/
def copyCode (l : Launch) (d : Nat) : M :=
  M.look fun s =>
    let c := s.chip
    M.iff (l.stale.contains d) (M.seq
      (M.each (List.range (l.terms.codeSize d)) fun k => M.write ⟨memAddr kCode d (64 * (l.terms.codeBase d + k)), allBytes, 0⟩)
      (M.each ((l.sections c).filter fun x => x.kind == 1 && x.die == d) (applySection l)))

/-- Wall rows of the region's banks are undefined at launch (R274). DESIGN CHOICE, log entry 80. -/
def undefinedWall (l : Launch) (d : Nat) : M :=
  M.look fun s =>
    let c := s.chip
    M.iff (d < 8) (M.each (List.range (l.terms.bankn * 1536)) fun k =>
      let a := wallAddr d l.terms.banklo k
      M.write ⟨a, allBytes, Config.freeRow c.free a⟩)

/-- Package cycles of a slice of a launch; a SLICE of 0 that a reload has brought ends one in every cycle. DEDUCED, log entry 82. -/
def Launch.slice (l : Launch) : Nat := Nat.max 1 (1024 * l.terms.slice)

/-- Every party and house program begins (R290). DEDUCED, log entry 84. -/
def beginLaunch (l : Launch) : M :=
  M.look fun s => M.all [
    M.each (l.parties ++ l.houses) fun p => M.all [modDie p.1 fun x => x.start s.chip l p.1 p.2, undefinedWall l p.1, copyCode l p.1],
    tickFree,
    M.each ((l.sections s.chip).filter fun x => 2 ≤ x.kind && x.kind ≤ 5) (applySection l),
    modLaunch l.id fun k => { k with path := 4, img := [], sliceAt := s.chip.now + l.slice }, schedIn l.slice (.sliceEnd l.id)]

/-! ### Scheduling (R292) -/

/-- Waits in the launch queue with its image checked, or is pre-empted. -/
def Launch.runnable (l : Launch) : Bool := ((l.state == .queued && l.path == 2) || l.state == .preempted) && l.status == 0
/-- Effective priority (R292). -/
def Chip.effPrio (c : Chip) (l : Launch) : Nat := Nat.min 7 (c.prio l.region + l.waited)
/-- The dies a launch needs to be placed: house programs only the first time (R293). -/
def Launch.needs (l : Launch) : List Nat := if l.placed then l.parties.map (·.1) else l.dies

/-- `a` is taken before `b` (R292, R18). -/
def Chip.before (c : Chip) (a b : Launch) : Bool :=
  let x := c.effPrio a
  let y := c.effPrio b
  y < x || (x == y && (b.waited < a.waited || (a.waited == b.waited &&
    (a.arrived < b.arrived || (a.arrived == b.arrived && (a.port < b.port || (a.port == b.port && a.id < b.id)))))))
/-- Insert a candidate in its order. -/
def Chip.rank (c : Chip) (a : Launch) : List Launch → List Launch
  | [] => [a]
  | b :: l => if c.before a b then a :: b :: l else b :: Chip.rank c a l

/-- The logical die of a die in a device view (R284). -/
def logDie (view d : Nat) : Nat := match view with | 0 => d | 1 => d % 4 | _ => 0
/-- A row access of the die's own copy engine to a party's save area (R294, R295). -/
def contextAcc (c : Chip) (l : Launch) (p : Saved) (k : AccKind) (off : Nat) : Acc :=
  { blankAcc c p.die k (.virt (c.savea l.region + 0x2000000 * logDie p.view p.die + off) 0) with
    path := 4, region := l.region, launch := some l.id, a := BitVec.ofNat 64 off }

/-- The rows a restore reads (R295): the control state and every group that has a copy. An ended party has no more to restore. -/
def restoreReq (l : Launch) (p : Saved) : M :=
  M.iff (p.run != .ended) (M.each (saveOffsets p.mace p.kept) fun off => M.look fun s => startAcc (contextAcc s.chip l p .restore off))

/-- Place a launch whose dies are free (R290, R292, R295): from its first placement on it holds its region's values (R299), and the code of
its dies that is not loaded is to be copied: a reload of the block that comes meanwhile counts for the launch after it (R290, R298). -/
def place (l : Launch) (fresh : Bool) : M :=
  M.look fun s =>
    let l := { l with stale := if l.placed then l.stale else l.dies.filter (s.chip.stale l) }
    let at' := (if fresh then l.arrived else s.chip.now) + 1440 + l.extra s.chip
    let t := Nat.max at' s.chip.now
    M.all [
      M.each l.needs fun d => modDie d fun x => { x with launch := some l.id, run := .idle },
      modLaunch l.id fun k => { k with
        state := .running, waited := 0, slices := 0, placed := true, terms := if l.placed then k.terms else s.chip.terms l.region },
      refreshStatus l.region,
      if l.placed then M.seq (M.each l.saved (restoreReq l)) (schedIn 1 (.contextRestore l.id))
      else M.all [modLaunch l.id fun k => { k with path := 3, issueAt := t, stale := l.stale },
        M.mod fun c => { c with loaded := c.loaded ++ l.stale.map fun d => (l.region, d) },
        M.each (l.wanted s.chip) (imageReq l), sched t (.launchPlace l.id)]]

/-- Consider one candidate (R292): place it, or request the pre-emption of what runs on its dies; a mode lost while it waited refuses it
(R215). `ended` is the launch whose slice has just ended. -/
def consider (ended fresh : Option Nat) (id : Nat) : M :=
  M.look fun s => match s.chip.launches.find? fun l => l.id == id && l.runnable with
    | none => M.skip
    | some l =>
      let c := s.chip
      let on := c.launches.filter fun r => l.needs.any fun d => (c.die d).launch == some r.id
      let e := c.effPrio l
      let yields (r : Launch) : Bool :=
        (r.state == .running || r.state == .preempting) && !(l.needs.any fun d => 8 ≤ d && (c.die d).launch == some r.id) &&
        (c.prio r.region < e || (ended == some r.id && c.prio r.region ≤ e && c.weight r.region ≤ r.slices))
      if !l.placed && c.modesLost l.modes (l.parties.map (·.1)) then refuse id 5
      else if l.needs.all fun d => (c.die d).launch.isNone then place l (fresh == some id)
      else M.iff (on.all yields) (M.each (on.filter fun r => r.state == .running) fun r =>
        modLaunch r.id fun k => { k with state := .preempting, askedAt := c.now })

/-- A decision point. -/
def decide' (ended fresh : Option Nat) : M :=
  M.look fun s =>
    let l := (s.chip.launches.filter Launch.runnable).foldl (fun l a => s.chip.rank a l) []
    M.each (l.map (·.id)) (consider ended fresh)

/-- Load a region's block; PRIO or WEIGHT changed is a decision point (R292, R298). -/
def loadRegion (n : Nat) (k : Nat → M) : M :=
  M.look fun s =>
    let share (c : Chip) : List (Nat × Nat) := c.launches.map fun l => (c.prio l.region, c.weight l.region)
    loadBlock n fun st => M.seq (k st) (M.look fun t => M.iff (share t.chip != share s.chip) (decide' none none))

/-- A block that a port has asked for is read and loaded, or is to be read again when what holds it may have passed (R298, R330, R379,
R384). -/
def portBlock (n : Nat) : M :=
  M.look fun s =>
    if s.blockHeld n != 0 then M.mod fun c => { c with loadWait := c.loadWait.filter (·.1 != n) ++ [(n, c.now + s.blockHeld n)] }
    else loadRegion n fun _ => M.skip
/-- The blocks whose time has come are read again. -/
def retryLoads : M :=
  M.look fun s =>
    let due := s.chip.loadWait.filter fun p => p.2 ≤ s.chip.now
    M.iff (!due.isEmpty) (M.seq (M.mod fun c => { c with loadWait := c.loadWait.filter fun p => c.now < p.2 })
      (M.each (due.map (·.1)) portBlock))
/-- What a port's write of RCBSYNC does (R280): the port loads the block, and firmware hears of it. -/
def portLoad (port n : Nat) : M := M.look fun s => M.seq (fwev 6) (M.iff (s.chip.semOwner == 1 + port) (portBlock n))
/-- RCBSYNC (R280). -/
def execRcbsync (port : Nat) (region : BitVec 16) (s : State) : Host.Outcome State Fault Refusal :=
  finish s (portUp (portLoad port region.toNat))

/-- LAUNCH_PLACE (R289, R290): the launch path goes on: the header, the section table and its check, then the sections of a placed
launch, whose parties begin in the cycle of their first issue. -/
def execLaunchPlace (launch : Nat) (s : State) : Host.Outcome State Fault Refusal :=
  finish s (match s.chip.launches.find? fun l => l.id == launch with
    | none => M.skip
    | some l =>
      let tab := (l.nsec + 3) / 4
      let setPath (n : Nat) : M := modLaunch launch fun k => { k with path := n }
      let ready : M := M.seq (setPath 2) (decide' none (some launch))
      if l.state == .ended || l.status == 8 then M.skip
      else if l.status == 7 && l.path < 2 then refuse launch 7
      else if l.status == 7 then M.all [forgetCode l, modLaunch launch fun k => { k with endedDies := k.dies, path := 4 },
        schedIn 0 (.completionWord launch)]
      else if l.path == 0 then
        M.iff (l.has 0) (
          if fld (l.row 0) 0 32 != 0x4B380D1A || fld (l.row 0) 32 16 != 1 then refuse launch 7
          else if tab = 0 then (if l.imageOk s.chip then ready else refuse launch 7)
          else M.seq (setPath 1) (M.each (List.range tab) fun k => imageReq l (1 + k)))
      else if l.path == 1 then
        M.iff ((List.range tab).all fun k => l.has (1 + k)) (if l.imageOk s.chip then ready else refuse launch 7)
      else M.iff (l.path == 3 && l.issueAt ≤ s.chip.now && (l.wanted s.chip).all l.has) (beginLaunch l))

/-- SLICE_END (R292). -/
def execSliceEnd (launch : Nat) (s : State) : Host.Outcome State Fault Refusal :=
  finish s (match s.chip.launches.find? fun l => l.id == launch with
    | none => M.skip
    | some l =>
      let n := l.slice
      M.iff (l.state == .running && l.sliceAt == s.chip.now) (M.all [
        M.mod fun c =>
          let launches := c.launches.map fun k =>
            if k.id = launch then { k with slices := k.slices + 1, sliceAt := c.now + n }
            else if k.runnable && (k.dies.any fun d => l.dies.contains d) then { k with waited := k.waited + 1 } else k
          { c with launches },
        sched (s.chip.now + n) (.sliceEnd launch), decide' (some launch) none]))

/-! ### Pre-emption (R49, R50, R293-R295) -/

/-- Everything issued has landed or retired; a sort stops between steps (R50, R51). DEDUCED, log entry 102. -/
def Die.quiet (x : Die) : Bool :=
  x.main.pend.isEmpty && x.main.wpend.isEmpty && x.main.ptimed.isEmpty && x.entries.isEmpty && x.copy.live.isEmpty &&
    x.copy.waiting.isEmpty && x.matrix.follow.isEmpty && x.solver.isNone && x.trap.isNone && x.trapQ.isEmpty && !x.inShadow

/-- PREEMPTION_POINT (R49, R50): the party stops issuing and drains; its next cycle is the one in which it stopped. -/
def execPreemptionPoint (die : Nat) (s : State) : Host.Outcome State Fault Refusal :=
  onDie die s (modDie die fun x =>
    if x.run == .running then { x with run := .draining }
    else if x.run == .barrier then { x with run := .draining, main := { x.main with nextIssue := x.main.prog } }
    else x)

/-- The context of a party (R50, R294): the next bundle issues in the cycle at which the party stopped. -/
def savedOf (l : Launch) (d : Nat) (x : Die) : Saved :=
  { die := d, run := if l.endedDies.contains d then .ended else if l.atBarrier.contains d then .barrier else .running,
    ctx := { x.main with prog := x.main.nextIssue },
    fpctl := (x.orFlags (x.nodeFlags ||| x.nodeDue)).fpctl, sbchk := x.sbchk, holdcnt := x.holdcnt, ssnum := x.ssnum, comm := x.comm, lc := x.lc, phaseAt := x.phaseAt,
    boundary := x.boundary, sys := x.sys, view := x.view, terms := x.terms, kept := x.kept ||| x.groups,
    barriers := x.barriers, queues := x.queues, faultrec := x.faultrec, xw := x.xw,
    matrix := { x.matrix with free := min x.matrix.free (x.main.nextIssue + 6) }, mace := x.mace, copy := x.copy, monitors := x.monitors }

/-- A drained party saves the control state, whose bytes the spec does not lay out, and the groups that are dirty (R294).
DESIGN CHOICE, log entry 13. -/
def saveParty (d : Nat) : M :=
  M.look fun s =>
    let x := s.chip.die d
    match s.chip.launchOf d with
    | none => M.skip
    | some l =>
      let p := savedOf l d x
      M.all [modDie d fun y => { y with run := .preempted },
        M.each (saveOffsets x.mace x.groups) fun off => M.look fun t => startAcc { contextAcc t.chip l p .save off with
          data := if off < 0x10000 then Config.freeRow s.chip.free off else p.rowAt off },
        tickFree]

/-- When every party has stopped and saved, the launch is pre-empted and its dies are free (R293). -/
def finishPreempt (id : Nat) : M :=
  M.look fun s => match s.chip.launches.find? fun l => l.id == id && l.state == .preempting with
    | none => M.skip
    | some l =>
      let c := s.chip
      let ds := l.parties.map (·.1)
      let stopped (d : Nat) : Bool := (c.die d).run == .preempted || ((c.die d).run == .ended && (c.die d).quiet)
      M.iff (ds.all stopped && !(c.accs.any fun a => a.kind == .save && a.launch == some id && !a.settled)) (M.all [
        modLaunch id fun k => { k with state := .preempted, saved := ds.map fun d => savedOf l d (c.die d) },
        M.each ds fun d => modDie d fun x => { x with launch := none, run := .idle, monitors := [] },
        refreshStatus l.region, decide' none none])

/-- A party's context is restored, as its rows were read (R295, R276, R225): the tile and the accumulators without a copy are undefined,
cells outside the tile are zero, a stopped sort runs its remaining steps one per package cycle, and every page is translated anew (R313).
DEDUCED, log entry 13. -/
def restoreParty (c : Chip) (l : Launch) (p : Saved) : M :=
  modDie p.die fun x =>
    let jobs := p.mace.jobs.map fun j => { j with resumed := true }
    let k := kUnpack p.mace.kstate
    let cells := p.mace.cells.filter fun q => q.1 / 256 < k.nr && q.1 % 256 < k.nc
    let m := p.matrix
    let m := if p.kept.getLsbD 108 then m else { m with tile := { m.tile with gen := some c.free, rows := [], scales := [] } }
    let m := if fld p.kept.toNat 104 4 = 0 then { m with accGen := some c.free, acc := [] } else m
    { x with
      main := { p.ctx with waits := x.main.waits.filter Wait.isGovernor }, inShadow := false, run := p.run, trap := none, fpctl := p.fpctl, sbchk := p.sbchk,
      holdcnt := p.holdcnt, ssnum := p.ssnum, comm := p.comm, lc := p.lc, phaseAt := p.phaseAt, barriers := p.barriers,
      queues := p.queues, faultrec := p.faultrec, xw := p.xw, copy := p.copy, monitors := p.monitors,
      matrix := { m with dirty := 0, fenced := x.matrix.fenced, spareFor := x.matrix.spareFor },
      mace := { p.mace with dirty := false, jobs, cells }, dirty := 0, kept := p.kept, boundary := p.boundary, terms := p.terms,
      tcCopy := [], tcGather := [], tcFabric := [], tcSeq := [], trapQ := [], entries := [], fences := [], heldFor := 0, sys := p.sys,
      rgnId := l.region, view := p.view, dev := l.dev }

/-- CONTEXT_RESTORE (R293, R295): once every restore read has performed, all parties resume in one package cycle. -/
def execContextRestore (launch : Nat) (s : State) : Host.Outcome State Fault Refusal :=
  finish s (match s.chip.launches.find? fun l => l.id == launch && l.state == .running && !l.saved.isEmpty with
    | none => M.skip
    | some l =>
      let n := l.slice
      if s.chip.accs.any fun a => a.kind == .restore && a.launch == some launch then schedIn 1 (.contextRestore launch)
      else M.all [M.each l.saved (restoreParty s.chip l), tickFree,
        modLaunch launch fun k => { k with saved := [], sliceAt := s.chip.now + n }, sched (s.chip.now + n) (.sliceEnd launch),
        M.iff ((l.parties.all fun p => l.atBarrier.contains p.1 || l.endedDies.contains p.1) && !l.atBarrier.isEmpty)
          (sched (Nat.max s.chip.now (l.barrierP + 64)) (.packageBarrierComplete launch))])

/-! ### Completion (R117, R291, R349) -/

/-- Every program has ended, or never ran, or is contained; every access of the launch has performed, and its dies have come
to rest (R117). DEDUCED, log entry 113. -/
def Launch.finished (l : Launch) (c : Chip) : Bool :=
  (l.state == .ended || l.status == 8 || l.dies.all fun d => l.endedDies.contains d) &&
  !(c.accs.any fun a => a.launch == some l.id && !a.settled) && !(c.records.any fun p => p.launch == l.id) &&
    !((c.oqueue ++ c.owait).any fun q => q.2.any fun r => r.launch == some l.id) &&
    (l.dies.all fun d => (c.die d).launch != some l.id || (c.die d).run == .contained || (c.die d).quiet)

/-- The dies of a launch that has ended are free, and its monitors go (R265). -/
def freeDies (l : Launch) : M :=
  M.look fun s => M.each (l.dies.filter fun d => (s.chip.die d).launch == some l.id) fun d =>
    modDie d fun x => { x with launch := none, run := .idle, monitors := [] }

/-- The completion word's write (R291). DEDUCED, log entry 66. DESIGN CHOICE, log entry 115. -/
def writeWord (l : Launch) : M :=
  M.look fun s =>
    startAcc { blankAcc s.chip (8 + l.port % 2) .cword (.virt (l.cw / 64 * 64) 0) with
      path := 0, word := l.cw % 64 / 8, a := BitVec.ofNat 64 (1 + 256 * l.status), region := l.region, launch := some l.id }

/-- Once every completion word of a faulted domain has been written, its regions' STATUS returns to 0 (R349). `region` is that of the
launch whose word was the last. -/
def clearDomain (dom region : Nat) : M :=
  M.look fun s =>
    M.iff (!(s.chip.launches.any fun l => s.chip.domainOf l == dom && l.status == 8))
      (M.each (s.chip.rstatus.filter fun p => p.2 == 4 && (s.chip.fdom p.1 == dom || p.1 == region)) fun p =>
        M.seq (setStatus p.1 0) (refreshStatus p.1))

/-- COMPLETION_WORD (R117, R291): made when the launch is over; once it has performed the launch is gone. -/
def execCompletionWord (launch : Nat) (s : State) : Host.Outcome State Fault Refusal :=
  finish s (match s.chip.launches.find? fun l => l.id == launch with
    | none => M.skip
    | some l =>
      if l.word = 2 then
        M.seq (M.mod fun c => { c with launches := c.launches.filter fun k => k.id != launch })
          (M.iff (l.status == 8) (clearDomain (s.chip.domainOf l) l.region))
      else if l.word = 1 then M.skip
      else if l.finished s.chip then M.all [
        modLaunch launch fun k => { k with state := .ended, word := 1 }, freeDies l, writeWord l, refreshStatus l.region,
        M.iff (l.placed || l.status == 8) (fwev 7), decide' none none]
      else M.iff (!(s.chip.events.any fun e => e.2 == .completionWord launch)) (schedIn 1 (.completionWord launch)))

end Sys2Proof.Machine
end

