-- ==== Sys2Proof/Machine/Optical.lean ====
section
/-!
DEFINITION. Links and other packages (R111, R354, R363, R366-R368): discovery, link failures, the slot table's rotation, and what
arrives over the optical ports.
-/

namespace Sys2Proof.Machine

/-! ### Links (R363, R365) -/

/-- The end of a link at the other die. -/
def farEnd (d g : Nat) : Option (Nat × Nat) :=
  (peer d g).bind fun e => ((List.range 4).find? fun h => peer e h == some d).map fun h => (e, h)

/-- DISCOVER (R363): each die tells its number over every link that is up, and every die learns which dies it reaches; what far die 8 does
not reach is absent. -/
def execDiscover (s : State) : Host.Outcome State Fault Refusal :=
  finish s (M.all [
    M.each (List.range 12) fun d => M.each (List.range 4) fun g => M.iff ((s.chip.die d).linkUp g) (match farEnd d g with
      | some (e, h) => schedLoaded 80 (.msgMg (.discover e h d))
      | none => M.skip),
    learnReach, markAbsent])

/-- LINK_DOWN (R363): both ends mark the link down, messages under way over it arrive late, the rows of the Cloves among them, and a die
without a link is reset (R351). -/
def execLinkDown (die link : Nat) (s : State) : Host.Outcome State Fault Refusal :=
  let c := s.chip
  let late (i : Instr) : Bool := match c.legOf i with
    | some (a, t) => c.crosses a t die link
    | none => false
  let deaf (d : Nat) : M := M.look fun t =>
    M.iff ((List.range 4).all fun g => !(t.chip.die d).linkUp g) (schedIn 0 (.dieReset d))
  let n := 96 + Config.extra c.free
  onDie die s (M.all [
    delayWhere late n,
    M.each (List.range 12) fun f => modMigs f fun l => l.map fun m =>
      let m := if c.crosses f m.oldDie die link && m.left != 0 then { m with first := m.first + n } else m
      if c.crosses f m.newDie die link then m.delayRows c.now (fun _ => true) n else m,
    tickFree,
    setLink die link 2, match farEnd die link with | some (e, g) => setLink e g 2 | none => M.skip,
    deaf die, match farEnd die link with | some (e, _) => deaf e | none => M.skip, learnReach])

/-- WHEEL_MARKER (R111): a home has heard of every operation of a position before the cycle in which one may perform (R110); what
it holds back it tries again each cycle, so the marker itself changes nothing. DEDUCED, log entry 70. -/
def execWheelMarker (_position : Nat) (s : State) : Host.Outcome State Fault Refusal := finish s M.skip

/-! ### The slot table (R366, R367) -/

/-- Fields of an entry. -/
def slDest (e : Nat) : Nat := fld e 0 8
def slDur (e : Nat) : Nat := fld e 32 12
def slGuard (e : Nat) : Nat := fld e 44 8
/-- Rows that leave in one cycle: one for each port. -/
def slPorts (e : Nat) : Nat := popN (fld e 8 24) 24

/-- Entry `k` of the table in force is valid (R366). -/
def Chip.slotOk (c : Chip) (k : Nat) : Bool :=
  let w (j : Nat) : Nat := (SMap.get 0 c.slots j).toNat
  let good (e : Nat) : Bool := bitOf e 52 && fld e 53 11 == 0 && slDur e != 0 && fld e 8 24 != 0 && slDest e != c.pkgId
  good (w k) && !((List.range k).any fun j => good (w j) && slDest (w j) == slDest (w k))
/-- The valid entries in order, each with the cycle of the rotation at which it opens; and the length of the rotation. -/
def Chip.rotation (c : Chip) : List (Nat × Nat) × Nat :=
  ((List.range 64).filter c.slotOk).foldl (fun (r : List (Nat × Nat) × Nat) k =>
    let e := (SMap.get 0 c.slots k).toNat
    (r.1 ++ [(k, r.2)], r.2 + slDur e + slGuard e)) ([], 0)

/-- An event of the slot table. -/
def isSlotEvent : Instr → Bool
  | .opticalEpoch => true
  | .opticalSlotOpen _ => true
  | .opticalSlotClose _ => true
  | _ => false

/-- OPTICAL_EPOCH (R366): a rotation starts, with the table as written so far; the next follows it. DESIGN CHOICE, log entry 73. -/
def execOpticalEpoch (s : State) : Host.Outcome State Fault Refusal :=
  finish s (M.seq (M.mod fun c => { c with slots := c.slotsNext, rotStart := c.now, oslot := none,
                                           events := c.events.filter fun e => !isSlotEvent e.2 })
    (M.look fun t =>
      let r := t.chip.rotation
      M.seq (M.each r.1 fun p => schedIn p.2 (.opticalSlotOpen p.1)) (M.iff (r.2 != 0) (schedIn r.2 .opticalEpoch))))

/-- One row's place in the slot: its region may send no more than its share, as its launch holds it (R367). DEDUCED, log entry 72. -/
def Chip.mayLeave (c : Chip) (launch : Option Nat) (region e : Nat) : Bool :=
  let opt := match c.launches.find? fun l => some l.id == launch with
    | some l => (c.holds l).opt
    | none => c.opt region
  SMap.get 0 c.osent region < opt * (slDur e * slPorts e) / 256
/-- Count a row that leaves. -/
def sentRow (region : Nat) : M := M.mod fun c => { c with osent := SMap.set 0 c.osent region (SMap.get 0 c.osent region + 1) }

/-- The next access or row to the destination leaves: accesses and the returns of other packages' go ahead of queued rows (R368), rows in
queue order (R367); a row that waits outside takes the place that has come free (R268). An access that its die has dropped waits no more;
a return is no row of a region. DEDUCED, log entry 161. -/
def leaveOne (e : Nat) : M :=
  M.look fun s =>
    let c := s.chip
    let dest := slDest e
    match (SMap.get [] c.oaccs dest).filter fun i => (c.acc i).isSome with
    | i :: l => withAcc i fun a =>
      if a.returns.isSome then M.seq (M.mod fun c => { c with oaccs := SMap.set [] c.oaccs dest l }) (dropAcc i)
      else M.iff (c.mayLeave a.launch a.region e) (M.all [M.mod fun c => { c with oaccs := SMap.set [] c.oaccs dest l }, sentRow a.region,
        sched (c.now + 585 + Config.extra c.free) (performEvent a), tickFree])
    | [] => match SMap.get [] c.oqueue dest with
      | [] => M.skip
      | r :: l =>
        let out := SMap.get [] c.owait dest
        M.iff (c.mayLeave r.launch r.region e) (M.all [M.mod fun c => { c with
            oqueue := SMap.set [] c.oqueue dest (l ++ out.take 1), owait := SMap.set [] c.owait dest (out.drop 1) }, sentRow r.region,
          M.look fun t =>
            let a := { blankAcc t.chip r.die .osend (.virt (r.vas.getLastD 0) 0) with
              id := r.id, stage := .forwarded, data := r.data, region := r.region, launch := r.launch, word := dest, prog := r.prog,
              va := r.vas.headD 0, key := r.addr, sh := false }
            M.seq (M.mod fun c => { c with accs := c.accs ++ [a], nextId := max c.nextId (a.id + 1) }) (schedIn 585 (.msgWr a.id))])

/-- OPTICAL_SLOT_OPEN (R367): the slot opens, and in each of its cycles rows leave over its ports. -/
def execOpticalSlotOpen (entry : Nat) (s : State) : Host.Outcome State Fault Refusal :=
  let c := s.chip
  let e := (SMap.get 0 c.slots entry).toNat
  let first := c.oslot != some entry
  finish s (M.all [
    M.iff first (M.seq (M.mod fun c =>
        let q := (SMap.get [] c.oqueue (slDest e)).map fun r => { r with stood := true }
        { c with oslot := some entry, osent := [], oqueue := SMap.set [] c.oqueue (slDest e) q })
      (schedIn (slDur e) (.opticalSlotClose entry))),
    M.all (List.replicate (slPorts e) (leaveOne e)),
    M.iff (!(c.events.any fun p => p.2 == .opticalSlotClose entry && p.1 ≤ c.now + 1)) (schedIn 1 (.opticalSlotOpen entry))])

/-- OPTICAL_SLOT_CLOSE (R367): rows that stood in the queue and have not left wait a rotation, and count as overruns (R269). -/
def execOpticalSlotClose (entry : Nat) (s : State) : Host.Outcome State Fault Refusal :=
  let dest := slDest (SMap.get 0 s.chip.slots entry).toNat
  let q := SMap.get [] s.chip.oqueue dest
  finish s (M.seq
    (M.mod fun c => { c with oslot := none, oqueue := SMap.set [] c.oqueue dest (q.map fun r => { r with stood := false }),
                             events := c.events.filter fun e => e.2 != .opticalSlotOpen entry })
    (M.each (q.filter (·.stood)) fun r => modDie r.die fun x => { x with overrun := SMap.set 0 x.overrun dest (SMap.get 0 x.overrun dest + 1) }))

/-! ### Arrivals from other packages (R366-R368) -/

/-- A row write from another package waits for those before it (R367). -/
def isInbound (a : Acc) : Bool := a.kind == .hostWr && a.path == 7

/-- The first of the waiting rows from other packages goes to its walker, once the one before it has performed.
DEDUCED, log entry 69. -/
def admitInbound : M :=
  M.look fun s =>
    let c := s.chip
    match (c.accs.filter isInbound).head? with
    | none => M.skip
    | some a => M.iff (a.stage == .start) (match (c.die a.die).regionOf (match a.target with | .virt b _ => b | _ => 0) with
      | none => dropAcc a.id
      | some (h, off) => M.seq (modAcc a.id fun x => { x with stage := .toWalker, dirDie := h, off := off, inc := c.incOf a.die h })
          (schedIn (if h = a.die then 4 else oneWay (c.hop a.die h)) (.walkerResolve a.id)))

/-- An access of another package goes to the walker of its row. -/
def admitAcc (addr : Nat) (f : Acc → Acc) (k : AccKind) : M :=
  M.look fun s =>
    let c := s.chip
    match (c.die 8).regionOf addr with
    | none => M.skip
    | some (h, off) =>
      let a := f { blankAcc c 8 k (.virt addr 0) with
        path := 7, region := 0, launch := none, stage := .toWalker, dirDie := h, off, inc := c.incOf 8 h, word := addr % 64 / 8 }
      M.seq (M.mod fun c => { c with accs := c.accs ++ [a], nextId := max c.nextId (a.id + 1) })
        (schedIn (if h = 8 then 4 else oneWay (c.hop 8 h)) (.walkerResolve a.id))

/-- OPTICAL_RECEIVE (R367, R368): a row of another package is applied in the order received; a read, an atomic or a reduction goes to its
row, and the package that waits for it is answered in the slot that leads back; a response answers the access that asked.
DESIGN CHOICE, log entry 71. -/
def execOpticalReceive (kind : OptKind) (s : State) : Host.Outcome State Fault Refusal :=
  let c := s.chip
  finish s (match kind with
    | .row addr data be =>
      let a := { blankAcc c 8 .hostWr (.virt addr 0) with data, be, path := 7, region := 0, launch := none }
      M.seq (M.mod fun c => { c with accs := c.accs ++ [a], nextId := max c.nextId (a.id + 1) }) admitInbound
    | .read addr src => admitAcc addr (fun a => { a with node := some (src, 0) }) .hostRd
    | .atomic addr fn a b src => admitAcc addr (fun x => { x with fn, a, b, node := src.map fun p => (p, 0) }) .atom
    | .reduce addr fn data => admitAcc addr (fun x => { x with fn, data }) .red
    | .response acc data => withAcc acc fun a =>
      M.iff (a.home.isNone && (a.stage == .forwarded || a.stage == .performed)) (
        if a.entry.isSome || a.kind.isRead then
          M.seq (modAcc acc fun x => { x with stage := .performed, data }) (schedIn 0 (.msgRs acc))
        else wrote a))

end Sys2Proof.Machine
end

