-- ==== Sys2Proof/Machine/Bringup.lean ====
section
/-!
DEFINITION. Bring-up, identity and reset (R386-R391): the Evorov image and its signature, the stages from the mask ROM to the open
launch queue, attestation reports, and the reset of the package.
-/

namespace Sys2Proof.Machine

/-! ### SHA-384 and HMAC (R388-R390) -/

/-- Round constants 0-15. -/
def shaA : List (BitVec 64) :=
  [ 0x428A2F98D728AE22, 0x7137449123EF65CD, 0xB5C0FBCFEC4D3B2F, 0xE9B5DBA58189DBBC,
    0x3956C25BF348B538, 0x59F111F1B605D019, 0x923F82A4AF194F9B, 0xAB1C5ED5DA6D8118,
    0xD807AA98A3030242, 0x12835B0145706FBE, 0x243185BE4EE4B28C, 0x550C7DC3D5FFB4E2,
    0x72BE5D74F27B896F, 0x80DEB1FE3B1696B1, 0x9BDC06A725C71235, 0xC19BF174CF692694 ]
/-- Round constants 16-31. -/
def shaB : List (BitVec 64) :=
  [ 0xE49B69C19EF14AD2, 0xEFBE4786384F25E3, 0x0FC19DC68B8CD5B5, 0x240CA1CC77AC9C65,
    0x2DE92C6F592B0275, 0x4A7484AA6EA6E483, 0x5CB0A9DCBD41FBD4, 0x76F988DA831153B5,
    0x983E5152EE66DFAB, 0xA831C66D2DB43210, 0xB00327C898FB213F, 0xBF597FC7BEEF0EE4,
    0xC6E00BF33DA88FC2, 0xD5A79147930AA725, 0x06CA6351E003826F, 0x142929670A0E6E70 ]
/-- Round constants 32-47. -/
def shaC : List (BitVec 64) :=
  [ 0x27B70A8546D22FFC, 0x2E1B21385C26C926, 0x4D2C6DFC5AC42AED, 0x53380D139D95B3DF,
    0x650A73548BAF63DE, 0x766A0ABB3C77B2A8, 0x81C2C92E47EDAEE6, 0x92722C851482353B,
    0xA2BFE8A14CF10364, 0xA81A664BBC423001, 0xC24B8B70D0F89791, 0xC76C51A30654BE30,
    0xD192E819D6EF5218, 0xD69906245565A910, 0xF40E35855771202A, 0x106AA07032BBD1B8 ]
/-- Round constants 48-63. -/
def shaD : List (BitVec 64) :=
  [ 0x19A4C116B8D2D0C8, 0x1E376C085141AB53, 0x2748774CDF8EEB99, 0x34B0BCB5E19B48A8,
    0x391C0CB3C5C95A63, 0x4ED8AA4AE3418ACB, 0x5B9CCA4F7763E373, 0x682E6FF3D6B2B8A3,
    0x748F82EE5DEFB2FC, 0x78A5636F43172F60, 0x84C87814A1F0AB72, 0x8CC702081A6439EC,
    0x90BEFFFA23631E28, 0xA4506CEBDE82BDE9, 0xBEF9A3F7B2C67915, 0xC67178F2E372532B ]
/-- Round constants 64-79. -/
def shaE : List (BitVec 64) :=
  [ 0xCA273ECEEA26619C, 0xD186B8C721C0C207, 0xEADA7DD6CDE0EB1E, 0xF57D4F7FEE6ED178,
    0x06F067AA72176FBA, 0x0A637DC5A2C898A6, 0x113F9804BEF90DAE, 0x1B710B35131C471B,
    0x28DB77F523047D84, 0x32CAAB7B40C72493, 0x3C9EBE0A15C9BEBC, 0x431D67C49C100D4C,
    0x4CC5D4BECB3E42B6, 0x597F299CFC657E2A, 0x5FCB6FAB3AD6FAEC, 0x6C44198C4A475817 ]
/-- The round constants of SHA-384. PRESUMED, log entry 90. -/
def shaK : Array (BitVec 64) := (shaA ++ shaB ++ shaC ++ shaD ++ shaE).toArray
/-- The initial hash value of SHA-384. -/
def shaH0 : List (BitVec 64) :=
  [ 0xCBBB9D5DC1059ED8, 0x629A292A367CD507, 0x9159015A3070DD17, 0x152FECD8F70E5939,
    0x67332667FFC00B31, 0x8EB44A8768581511, 0xDB0C2E0D64F98FA7, 0x47B5481DBEFA4FA4 ]

/-- A number of big-endian bytes. -/
def beNat (l : List (BitVec 8)) : Nat := l.foldl (fun n b => 256 * n + b.toNat) 0
/-- `n` big-endian bytes of a number. -/
def beBytes (n v : Nat) : List (BitVec 8) := (List.range n).map fun k => BitVec.ofNat 8 (v / 256 ^ (n - 1 - k))

/-- The message schedule, grown to 80 words; `n` words are still to come. -/
def shaSchedule : Nat → Array (BitVec 64) → Array (BitVec 64)
  | 0, w => w
  | n + 1, w =>
    let t := w.size
    let g (k : Nat) : BitVec 64 := w.getD (t - k) 0
    let s0 := (g 15).rotateRight 1 ^^^ (g 15).rotateRight 8 ^^^ (g 15) >>> 7
    let s1 := (g 2).rotateRight 19 ^^^ (g 2).rotateRight 61 ^^^ (g 2) >>> 6
    shaSchedule n (w.push (g 16 + s0 + g 7 + s1))

/-- The eight working variables. -/
structure ShaVars where
  a : BitVec 64
  b : BitVec 64
  c : BitVec 64
  d : BitVec 64
  e : BitVec 64
  f : BitVec 64
  g : BitVec 64
  h : BitVec 64

/-- One round. -/
def shaRound (w : Array (BitVec 64)) (v : ShaVars) (t : Nat) : ShaVars :=
  let s1 := v.e.rotateRight 14 ^^^ v.e.rotateRight 18 ^^^ v.e.rotateRight 41
  let ch := (v.e &&& v.f) ^^^ (~~~v.e &&& v.g)
  let t1 := v.h + s1 + ch + shaK.getD t 0 + w.getD t 0
  let s0 := v.a.rotateRight 28 ^^^ v.a.rotateRight 34 ^^^ v.a.rotateRight 39
  let maj := (v.a &&& v.b) ^^^ (v.a &&& v.c) ^^^ (v.b &&& v.c)
  ⟨t1 + s0 + maj, v.a, v.b, v.c, v.d + t1, v.e, v.f, v.g⟩

/-- One block of 128 bytes. -/
def shaBlock (h : List (BitVec 64)) (block : List (BitVec 8)) : List (BitVec 64) :=
  let w := shaSchedule 64 (((List.range 16).map fun k => BitVec.ofNat 64 (beNat ((block.drop (8 * k)).take 8))).toArray)
  let g (k : Nat) : BitVec 64 := h.getD k 0
  let v := (List.range 80).foldl (shaRound w) ⟨g 0, g 1, g 2, g 3, g 4, g 5, g 6, g 7⟩
  [g 0 + v.a, g 1 + v.b, g 2 + v.c, g 3 + v.d, g 4 + v.e, g 5 + v.f, g 6 + v.g, g 7 + v.h]

/-- The message in blocks of 128 bytes. -/
def shaBlocks : Nat → List (BitVec 8) → List (BitVec 64) → List (BitVec 64)
  | 0, _, h => h
  | n + 1, l, h => shaBlocks n (l.drop 128) (shaBlock h (l.take 128))

/-- SHA-384 of a string of bytes. -/
def sha384 (l : List (BitVec 8)) : List (BitVec 8) :=
  let n := l.length
  let m := l ++ [0x80] ++ List.replicate ((239 - n % 128) % 128) 0 ++ beBytes 16 (8 * n)
  (((shaBlocks (m.length / 128) m shaH0).take 6).map fun w => beBytes 8 w.toNat).flatten

/-- HMAC-SHA-384 with a key of at most 128 bytes. -/
def hmac384 (key msg : List (BitVec 8)) : List (BitVec 8) :=
  let k := key ++ List.replicate (128 - key.length) 0
  sha384 (k.map (· ^^^ 0x5C) ++ sha384 (k.map (· ^^^ 0x36) ++ msg))

/-! ### ECDSA on brainpoolP384r1 (R388-R390) -/

def bpP : Nat := 0x8CB91E82A3386D280F5D6F7E50E641DF152F7109ED5456B412B1DA197FB71123ACD3A729901D1A71874700133107EC53
def bpA : Nat := 0x7BC382C63D8C150C3C72080ACE05AFA0C2BEA28E4FB22787139165EFBA91F90F8AA5814A503AD4EB04A8C7DD22CE2826
def bpB : Nat := 0x04A8C7DD22CE28268B39B55416F0447C2FB77DE107DCD2A62E880EA53EEB62D57CB4390295DBC9943AB78696FA504C11
def bpN : Nat := 0x8CB91E82A3386D280F5D6F7E50E641DF152F7109ED5456B31F166E6CAC0425A7CF3AB6AF6B7FC3103B883202E9046565
/-- The base point. -/
def bpG : Nat × Nat :=
  (0x1D1C64F068CF45FFA2A63A81B7C13F6B8847A3E77EF14FE3DB7FCAFE0CBD10E8E826E03436D646AAEF87B2E247D4AF1E,
   0x8ABE1D7520F9C2A45CB1EB8E95CFD55262B70B29FEEC5864E19C054FF99129280E4646217791811142820341263C5315)

/-- b^e mod m, for e below 2^n. -/
def powMod (m : Nat) : Nat → Nat → Nat → Nat
  | 0, _, _ => 1 % m
  | n + 1, b, e => let h := powMod m n (b * b % m) (e / 2); if e % 2 = 1 then b * h % m else h
/-- The inverse modulo a prime of at most 384 bits. -/
def invMod (m b : Nat) : Nat := powMod m 384 (b % m) (m - 2)

/-- A point of the curve; none is the neutral one. -/
abbrev Point := Option (Nat × Nat)

/-- The sum of two points. -/
def ecAdd (a b : Point) : Point :=
  match a, b with
  | none, q => q
  | p, none => p
  | some (x, y), some (u, v) =>
    if x = u && (y + v) % bpP = 0 then none
    else
      let l := if x = u then (3 * x * x + bpA) * invMod bpP (2 * y) % bpP else (v + bpP - y) * invMod bpP (u + bpP - x) % bpP
      let w := (l * l + 2 * bpP - x - u) % bpP
      some (w, (l * (x + bpP - w) + bpP - y) % bpP)

/-- k times a point, for k below 2^n. -/
def ecMul : Nat → Nat → Point → Point
  | 0, _, _ => none
  | n + 1, k, p => let q := ecMul n (k / 2) (ecAdd p p); if k % 2 = 1 then ecAdd p q else q

/-- A point other than the neutral one, on the curve. -/
def onCurve (p : Nat × Nat) : Bool :=
  p.1 < bpP && p.2 < bpP && p.2 * p.2 % bpP == (p.1 * p.1 * p.1 + bpA * p.1 + bpB) % bpP

/-- (r, s) is a valid signature of a digest by a public key (R388). -/
def ecdsaOk (key : Nat × Nat) (r s digest : Nat) : Bool :=
  let w := invMod bpN s
  onCurve key && 0 < r && r < bpN && 0 < s && s < bpN &&
    (match ecAdd (ecMul 384 (digest * w % bpN) (some bpG)) (ecMul 384 (r * w % bpN) (some key)) with
      | some q => q.1 % bpN == r
      | none => false)

/-- A signature of a digest: the secret numbers from the `f`-th on are tried until one serves. -/
def ecdsaSign (d digest : Nat) : Nat → Nat → Nat × Nat
  | 0, _ => (0, 0)
  | n + 1, f =>
    let k := (Config.nonceK f).toNat % (bpN - 1) + 1
    let r := ((ecMul 384 k (some bpG)).map (·.1)).getD 0 % bpN
    let s := invMod bpN k * (digest + r * d) % bpN
    if r = 0 || s = 0 then ecdsaSign d digest n (f + 1) else (r, s)

/-! ### The Evorov image (R388) -/

/-- A section: KIND, DIE, length, offset. -/
structure ImgSection where
  kind : Nat
  die : Nat
  len : Nat
  off : Nat

/-- Where a slot's image stands in the boot flash on far die 8. -/
def slotBase (slot : Nat) : Nat := memAddr kFlash 8 (Config.flashSlot slot)
/-- `n` bytes of the image in a slot, from byte `off` on. -/
def State.img (s : State) (slot off n : Nat) : List (BitVec 8) := s.mem.bytes (slotBase slot + off) n
/-- A little-endian field of the image. -/
def State.imgNat (s : State) (slot off n : Nat) : Nat := leBytes (s.img slot off n)
/-- The section table. -/
def State.imgSections (s : State) (slot : Nat) : List ImgSection :=
  (List.range (s.imgNat slot 6 2)).map fun k =>
    let e := 256 + 16 * k
    ⟨s.imgNat slot e 1, s.imgNat slot (e + 1) 1, s.imgNat slot (e + 4) 4, s.imgNat slot (e + 8) 8⟩

/-- VER and every zero field are right, and the sections lie inside LEN. -/
def State.imgForm (s : State) (slot : Nat) : Bool :=
  let n := s.imgNat slot 6 2
  let len := s.imgNat slot 8 8
  s.imgNat slot 4 2 == 1 && 1 ≤ n && n ≤ 255 && s.imgNat slot 112 16 == 0 && s.imgNat slot 224 32 == 0 && 256 + 16 * n ≤ len &&
    ((List.range n).all fun k => s.imgNat slot (256 + 16 * k + 2) 2 == 0) &&
    ((s.imgSections slot).all fun x => 1 ≤ x.kind && x.kind ≤ 6 && x.die ≤ 11 && x.off + x.len ≤ len)

/-- ERR of the image in a slot (R387, R388): 0 valid, 1 no image, 4 bad format, 2 key hash mismatch, 3 bad signature. -/
def State.imgErr (s : State) (slot : Nat) : Nat :=
  let len := s.imgNat slot 8 8
  let digest := beNat (sha384 (s.img slot 0 128 ++ s.img slot 256 (len - 256)))
  if s.imgNat slot 0 4 != 0x45766F31 then 1
  else if !s.imgForm slot then 4
  else if beNat (sha384 (s.img slot 16 96)) != Config.rootKeyHash.toNat then 2
  else if !ecdsaOk (beNat (s.img slot 16 48), beNat (s.img slot 64 48)) (beNat (s.img slot 128 48)) (beNat (s.img slot 176 48)) digest
    then 3
  else 0

/-! ### The stages (R386, R389) -/

/-- The ASCII bytes of CQK8 identity. -/
def identityText : List (BitVec 8) := [0x43, 0x51, 0x4B, 0x38, 0x20, 0x69, 0x64, 0x65, 0x6E, 0x74, 0x69, 0x74, 0x79]
/-- The identity private key (R389). -/
def identityKey : Nat := beNat (hmac384 (beBytes 48 Config.puf.toNat) identityText) % (bpN - 1) + 1
/-- DEVID: SHA-384 of the public key, x then y (R389). -/
def devidOf (d : Nat) : Nat :=
  let q := (ecMul 384 d (some bpG)).getD (0, 0)
  beNat (sha384 (beBytes 48 q.1 ++ beBytes 48 q.2))

/-- Section `x` of the image, as rows of memory from an address on. PRESUMED, log entry 88. -/
def loadRows (slot : Nat) (x : ImgSection) (at' : Nat) : M :=
  M.look fun s => M.each (List.range ((x.len + 63) / 64)) fun k =>
    M.write ⟨at' + 64 * k, BitVec.ofNat 64 (2 ^ min 64 (x.len - 64 * k) - 1),
      BitVec.ofNat 512 (s.imgNat slot (x.off + 64 * k) (min 64 (x.len - 64 * k)))⟩

/-- The sections of a kind. -/
def withSections (slot kind : Nat) (k : ImgSection → M) : M :=
  M.look fun s => M.each ((s.imgSections slot).filter fun x => x.kind == kind) k

/-- Stages 0 to 2: the identity, the image of slot 0 or else of slot 1, the trims, and the links. DEDUCED, log entry 86. -/
def bringFirst : M :=
  M.look fun s =>
    let e0 := s.imgErr 0
    let e1 := s.imgErr 1
    let slot := if e0 = 0 then 0 else 1
    let key := identityKey
    M.all [
      M.mod fun c => { c with idKey := BitVec.ofNat 384 key, devid := BitVec.ofNat 384 (devidOf key), bslot := slot },
      if e0 != 0 && e1 != 0 then M.mod fun c => { c with berr := e1 }
      else M.all [
        M.mod fun c => { c with
          stage := 2, imageHash := BitVec.ofNat 384 (beNat (sha384 (s.img slot 0 (s.imgNat slot 8 8)))) },
        withSections slot 1 fun x => modDie x.die fun y =>
          let t := s.imgNat slot x.off x.len
          let spare := Config.trimSpare x.die t
          { y with
            power := { y.power with cap := BitVec.ofNat 12 (Nat.min 320 (Config.trimCap x.die t)) },
            matrix := { y.matrix with
              spareFor := spare.map fun n => n % 16,
              fenced := match spare with | some n => BitVec.ofNat 17 (2 ^ (n % 16)) | none => 0 } },
        M.each (List.range 12) fun d => M.each (List.range 4) fun g =>
          setLink d g (match peer d g with
            | none => 0
            | some e =>
              let back := ((List.range 4).find? fun h => peer e h == some d).getD 0
              let up (n : Nat) : Bool := n == 1 || n == 3
              if up (Config.linkTrains d g) && up (Config.linkTrains e back) then Config.linkTrains d g else 2),
        schedIn 0 .discover, schedIn 0 .bringup]]

/-- Stage 3: PKG and the slot table (R365, R366). -/
def bringPkg (slot : Nat) : M :=
  withSections slot 6 fun x => M.look fun s =>
    let word (k : Nat) : Nat := if 8 * k + 8 ≤ x.len then s.imgNat slot (x.off + 8 * k) 8 else 0
    M.mod fun c => { c with
      pkgId := fld (word 0) 0 8, npkg := fld (word 0) 8 8,
      slotsNext := (List.range 64).foldl (fun m k => SMap.set 0 m k (BitVec.ofNat 64 (word (1 + k)))) [] }

/-- Stage 4: what training finds for each pseudo-channel (R378). -/
def bringHbm (d : Nat) : M :=
  M.each [0, 1] fun k => modHbm d k fun h =>
    let base := 2 ^ 16 * (2 * d + k)
    { h with
      rdtap := (List.range (256 * 9)).foldl (fun m i => SMap.set 0 m i (Config.trainedTap base i)) [],
      wrtap := (List.range (256 * 9)).foldl (fun m i => SMap.set 0 m i (Config.trainedTap (base + 1) i)) [],
      repair := (List.range 256).foldl (fun m i => SMap.set 0 m i (Config.trainedRepair (base + i) &&& 0x37)) [] }

/-- Stage 5: directory header and root of die `d`: zeros where the image gives no header (R317). -/
def bringDirectory (slot d : Nat) : M :=
  let a := memAddr (homeKind d) d 0
  let zero (off n : Nat) : M := M.each (List.range n) fun k => M.write ⟨a + off + 64 * k, allBytes, 0⟩
  M.look fun s =>
    match (s.imgSections slot).find? fun x => x.kind == 4 && x.die == d with
    | none => M.all [zero 0 1, zero 0x8000 512, modDir d fun y => { y with en := false, sweep := 0, roots := [] }]
    | some x =>
      M.all [zero 0 1, zero 0x8000 512,
        loadRows slot { x with len := min x.len 64 } a,
        M.iff (64 < x.len) (loadRows slot { x with off := x.off + 64, len := min (x.len - 64) 0x8000 } (a + 0x8000)),
        readHeader d]

/-- Stage 5: package CSR values (R285, R278, R377): RTBASE, TVEC of each die, CRCTH of each stack, and the region table, as the
section gives them. -/
def bringCsrs (slot : Nat) : M :=
  withSections slot 5 fun x => M.look fun s =>
    let t := s.imgNat slot x.off x.len
    M.mod fun c => { c with
      rtbase := Config.imageRtbase t,
      dies := (List.range 12).map fun d =>
        let y := c.die d
        let hbm (h : Hbm) (k : Nat) : Hbm := if d < 8 then { h with crcth := Config.imageCrcth t (2 * d + k) } else h
        (List.range 256).foldl (fun z n => match Config.imageRegion t n with
            | some w => z.writeRt n w
            | none => z) { y with tvec := Config.imageTvec t d, hbm0 := hbm y.hbm0 0, hbm1 := hbm y.hbm1 1 } }

/-- Stage 5: the control block of region 0 (R281). -/
def bringBlock (slot : Nat) : M :=
  withSections slot 3 fun x => M.look fun s =>
    let b := BitVec.ofNat 2048 (s.imgNat slot x.off (min x.len 256))
    M.seq (M.mod fun c => { c with regions := SMap.set 0 c.regions 0 b, rloaded := [0] })
      (M.each (List.range 4) fun k => match s.resolvePa (s.chip.rtbase.toNat + 64 * k) with
        | some a => M.write ⟨a, allBytes, b.extractLsb' (512 * k) 512⟩
        | none => M.skip)

/-- Stages 3 to 6, once the dies have been discovered. -/
def bringSecond : M :=
  M.look fun s =>
    let slot := s.chip.bslot
    M.all [bringPkg slot,
      M.each ((List.range 8).filter fun d => (s.chip.die d).present) bringHbm,
      M.each ((List.range 12).filter fun d => (s.chip.die d).present) (bringDirectory slot),
      bringCsrs slot, bringBlock slot,
      withSections slot 2 fun x => loadRows slot { x with len := min x.len (64 * Config.codeStore x.die) } (memAddr kCode x.die 0),
      M.look fun t =>
        if !(t.chip.rloaded.contains 0 && t.chip.blockOk 0) then M.mod fun c => { c with stage := 4, berr := 6 }
        else M.all [M.mod fun c => { c with stage := 6 },
          schedIn 1024 .tempSample, M.each (List.range 8) fun d => schedIn 1800 (.powerWindowEnd d),
          sched (t.chip.now + 1 + Config.deviceDelay t.chip.free) .opticalEpoch, tickFree]]

/-- BRINGUP (R386, R387): the ROM of far die 8 brings the part up, first to the trained links, then, after discovery, to the open
launch queue; a failure leaves BOOTST with its ERR. -/
def execBringup (s : State) : Host.Outcome State Fault Refusal :=
  finish s (if s.chip.berr != 0 then M.skip else if s.chip.stage = 0 then bringFirst else if s.chip.stage = 2 then bringSecond else M.skip)

/-- BOOTST (R387). -/
def Chip.bootst (c : Chip) : Word :=
  BitVec.ofNat 64 (pack [(4, c.stage), (1, c.bslot), (3, 0), (8, c.berr), (1, c.abusy.toNat)])

/-! ### Attestation (R390) -/

/-- The owner of SEM asks for a report at a package address (R390). -/
def portAttreq (port addr : Nat) : M :=
  M.look fun s => M.iff (s.chip.stage == 6 && s.chip.semOwner == 1 + port && !s.chip.abusy && s.chip.cattrip.isNone) (M.all [
    M.mod fun c => { c with abusy := true },
    sched (s.chip.now + 1 + Config.deviceDelay s.chip.free) (.attestationReport addr), tickFree])
/-- ATTREQ (R390). -/
def execAttreq (port addr : Nat) (s : State) : Host.Outcome State Fault Refusal := finish s (portAttreq port addr)

/-- Eight bytes of a register, as memory holds them. -/
def wordBytes (w : Word) : List (BitVec 8) := toBytes 8 w.toNat
/-- HSTAT of both stacks of a compute die, and LINKST of any die, in die order (R390). -/
def Chip.statBytes (c : Chip) : List (BitVec 8) :=
  ((List.range 12).map fun d =>
    let x := c.die d
    (if d < 8 then wordBytes x.hbm0.hstat ++ wordBytes x.hbm1.hstat else []) ++ wordBytes (x.linkst.setWidth 64)).flatten

/-- The report on a nonce (R390). PRESUMED, log entry 89. -/
def Chip.report (c : Chip) (nonce : List (BitVec 8)) : List (BitVec 8) :=
  let body := toBytes 4 0x41747431 ++ toBytes 2 1 ++ toBytes 2 (c.bootst.toNat % 2 ^ 16) ++ beBytes 48 c.imageHash.toNat ++ nonce ++
    beBytes 48 c.devid.toNat ++ wordBytes (c.pkg 8) ++ sha384 c.statBytes
  let g := ecdsaSign c.idKey.toNat (beNat (sha384 body)) 4 c.free
  body ++ beBytes 48 g.1 ++ beBytes 48 g.2

/-- ATTESTATION_REPORT (R390): the report performs at its address, row by row, by way of the walker; it waits for a frozen page (R330) and
for a pseudo-channel that takes no request (R379, R384). A nonce that reads uncorrectably gets no report, and a row that has no usable leaf
or is out of service (R382) no bytes of it. -/
def execAttestationReport (addr : Nat) (s : State) : Host.Outcome State Fault Refusal :=
  let c := s.chip
  let first := rowBase addr
  let rows := (List.range ((addr - first + 304 + 63) / 64)).map fun r => first + 64 * r
  let nonce := (List.range 48).map fun k => addr + 56 + k
  let held := (rows.map s.paHeld).foldl max 0
  let byte (a : Nat) : BitVec 8 := match s.resolvePa (rowBase a) with
    | some p => rowByte (s.rowNow p) (a % 64)
    | none => 0
  let rep := c.report (nonce.map byte)
  finish s (
    if !c.abusy then M.skip
    else if held != 0 then schedIn held (.attestationReport addr)
    else M.all [
      M.each ((nonce.map rowBase).eraseDups) fun a => heatAt a false,
      M.iff (nonce.all fun a => (s.resolvePa (rowBase a)).isNone || (s.paRow (rowBase a)).isSome) (M.each rows fun base =>
        let has (i : Nat) : Bool := addr ≤ base + i && base + i < addr + 304
        let be := BitVec.ofNat 64 (digits 1 (fun i => (has i).toNat) 64)
        match s.resolvePa base with
        | none => M.skip
        | some a => M.iff (!c.isDead a) (M.all [heatAt base true,
            writeRow (a / 2 ^ 67) a be (BitVec.ofNat 512 (digits 8 (fun i => if has i then (rep.getD (base + i - addr) 0).toNat else 0) 64)),
            M.iff (be == allBytes) (M.mod fun c => { c with bad := c.bad.filter (· != a) })])),
      M.mod fun c => { c with abusy := false, free := c.free + 4 }])

/-! ### Reset (R391) -/

/-- RSTCTL acts for the port that owns SEM; a CATTRIP of the same cycle acts first. -/
def rstctl (port : Nat) (m : M) : M :=
  M.look fun s => M.iff (s.chip.semOwner == 1 + port && s.chip.cattrip != some s.chip.now) m

/-- A port resets a die, or the package (R391). -/
def portDgo (port die : Nat) : M :=
  rstctl port (M.look fun s => M.iff (die < 12 && s.chip.cattrip.isNone) (schedIn 0 (.dieReset die)))
def portPgo (port : Nat) : M := rstctl port (schedIn 0 .packageReset)
/-- RSTCTL_DGO (R391). -/
def execRstctlDgo (port die : Nat) (s : State) : Host.Outcome State Fault Refusal := finish s (portUp (portDgo port die))
/-- RSTCTL_PGO (R391): it acts, and a DGO written with it does not. -/
def execRstctlPgo (port : Nat) (s : State) : Host.Outcome State Fault Refusal := finish s (portUp (portPgo port))

/-- Storage that a package reset leaves: the boot flash, and the host's own memory. -/
def keptByReset (a : Nat) : Bool := a / 2 ^ 64 % 8 == kFlash || a / 2 ^ 64 % 8 == kHost

/-- PACKAGE_RESET (R391): every die stops, every tier is lost, and bring-up starts again. DEDUCED, log entry 91. -/
def execPackageReset (s : State) : Host.Outcome State Fault Refusal :=
  let rows := ((s.mem.filter fun p => !keptByReset p.1).map fun p => rowBase p.1).eraseDups
  finish s (M.seq (M.each rows fun a => M.write ⟨a, allBytes, 0⟩) (M.mod fun c => { Chip.reset with free := c.free }))

/-! ### The window of a control port (R280, R387) -/

/-- An access to the memory window of a control port (R280, R387): a register takes a write of its own size, from the window's offset on;
writes to other offsets are dropped, and reads of them return zero. A port has no link before stage 6; when bring-up has stopped, that of
far die 8 shows BOOTST alone. -/
def windowAccess (port off : Nat) (write : Option (BitVec 512 × BitVec 64)) : M :=
  M.look fun s =>
    let c := s.chip
    let boot : Row := c.bootst.setWidth 512
    match write with
    | some w =>
      let v := rowWord w.1 0
      portUp (
        if off = 0x000 then M.iff (w.2 == allBytes) (startVector port w.1)
        else M.iff (fld w.2.toNat 0 8 == 255) (
          if off = 0x040 then portSemWrite (1 + port) v
          else if off = 0x048 then portLoad port (fld v.toNat 0 16)
          else if off = 0x060 then portAttreq port v.toNat
          else if off = 0x068 then
            (if bitOf v.toNat 5 then portPgo port else M.iff (bitOf v.toNat 4) (portDgo port (fld v.toNat 0 4)))
          else M.skip))
    | none => portRead port (if off = 0x058 then boot else 0) (
        if off = 0x040 then portSemRead (1 + port)
        else
          let r : Row := if off = 0x050 then c.lqstat.setWidth 512 else if off = 0x058 then boot else 0
          M.mod fun c => { c with hostData := SMap.set 0 c.hostData port r })

/-- HOST_MEMORY_ACCESS (R17, R280): the host reads or writes a register of the port's window, or a row of package memory, whose access goes
through the region table and the walker like any other; a port carries neither before stage 6 (R386), and when bring-up has stopped that of
far die 8 answers reads with zeros (R387). DEDUCED, log entry 68. DESIGN CHOICE, log entry 145. -/
def execHostMemoryAccess (port : Nat) (addr : HostAddr) (write : Option (BitVec 512 × BitVec 64)) (s : State) :
    Host.Outcome State Fault Refusal :=
  let d := 8 + port % 2
  let c := s.chip
  finish s (match addr with
    | .window off => windowAccess (port % 2) off write
    | .memory addr =>
      let go : M := match (c.die d).regionOf addr with
        | none => M.skip
        | some (h, off) =>
          let w := write.getD (0, 0)
          let a := { blankAcc c d (if write.isSome then .hostWr else .hostRd) (.virt addr 0) with
            data := w.1, be := w.2, region := 0, launch := none, stage := .toWalker, dirDie := h, off, inc := c.incOf d h }
          M.iff (addr / 2 ^ 56 == c.pkgId) (M.seq
            (M.mod fun c => { c with accs := c.accs ++ [a], nextId := max c.nextId (a.id + 1) })
            (leave a h 0 (c.toDie d h) (.walkerResolve a.id)))
      if write.isSome then portUp go else portRead (port % 2) 0 go)

end Sys2Proof.Machine
end

