-- ==== Sys2Proof/Machine/Landing.lean ====
section
/-!
DEFINITION. What lands at the start of a program cycle (R27, R40, R42, R67, R259, R267): results of fixed latency, landing-buffer
entries and the count queues.
-/

namespace Sys2Proof.Machine

/-! ### Results of fixed latency (R27) -/

/-- Pending results by the cycle of their issue, the earliest first; those of one cycle stay in slot order. -/
def byIssue (p : Pend) : List Pend → List Pend
  | [] => [p]
  | q :: l => if q.iss ≤ p.iss then q :: byIssue p l else p :: q :: l
/-- The due results of a stream, in the order in which they apply. -/
def Ctx.due (x : Ctx) : List Pend :=
  (x.pend.filter fun p => !p.land.isMace && p.due ≤ x.prog).foldl (fun l p => byIssue p l) []

/-- The group in which a result applies within its cycle: pushes come before pops (R267), arrivals after a BINIT (R259), an MMAC
reads its source as the cycle leaves it (R203), and flags end set (R67). -/
def Land.group : Land → Nat
  | .push _ _ => 3
  | .barr _ _ => 1
  | .macRead _ _ _ => 1
  | .flags _ => 2
  | _ => 0

/-- Add a pending result of a stream. -/
def pendOf (d : Nat) (sh : Bool) (p : Pend) : M := modStream d sh fun y => { y with pend := y.pend ++ [p] }
/-- Flags of a command that retires in cycle `ret` (R67). -/
def pendFlags (d : Nat) (sh : Bool) (iss ret : Nat) (f : Flags) : M := M.iff (f != 0) (pendOf d sh ⟨ret + 1, iss, .flags f⟩)

/-- One result takes effect in a stream of die `d` (R27). -/
def landOne (d : Nat) (sh : Bool) (p : Pend) : M :=
  match p.land with
  | .s n x => modStream d sh fun y => { y with s := SMap.set 0 y.s n x }
  | .p n b => modStream d sh fun y => y.setP n b
  | .c n x => modStream d sh fun y => { y with c := SMap.set 0 y.c n x }
  | .tl n x => modStream d sh fun y => { y with tl := SMap.set 0 y.tl n x }
  | .v n x => modStream d sh fun y => { y with v := SMap.set 0 y.v n x }
  | .xw n x => modDie d fun y => { y with xw := SMap.set 0 y.xw n x }
  | .xread n k x rows =>
    match rows with
    | [] => pendOf d sh ⟨p.due + 7, p.iss, .xw n x⟩
    | r :: rest => M.look fun s =>
      pendOf d sh ⟨p.due + 1, p.iss,
        .xread n (k + 1) (x ||| (s.wallRow d r.1 r.2).setWidth 11776 <<< (512 * k)) rest⟩
  | .ep n x => modDie d fun y => { y with matrix := { y.matrix with ep := SMap.set 0 y.matrix.ep n x, dirty := y.matrix.dirty ||| 32 } }
  | .csr n x => modDie d fun y => y.writeCsr d n x
  | .flags f => modDie d fun y => y.orFlags f
  | .binit b target => modDie d fun y => { y with
      barriers := SMap.set {} y.barriers b { SMap.get {} y.barriers b with target := BitVec.ofNat 16 target, count := 0 } }
  | .barr b n => modDie d fun y => y.arrive b n
  | .push q x => modDie d fun y => { y with queues := SMap.set [] y.queues q (y.counts q ++ [x]) }
  | .monclr row => modDie d fun y => { y with
      monitors := match row with | some i => y.monitors.filter (·.id != i) | none => [] }
  | .accAdd a m row int ret => M.look fun s =>
    let j := joinRow int ((s.chip.die d).matrix.accRow a m) row
    M.seq (modMatrix d fun x => x.setAcc a m j.1) (pendFlags d sh p.iss ret j.2)
  | .accRank a m row e => modMatrix d fun x => x.setAcc a m (rankJoin (x.accRow a m) row e)
  | .accClear a int => modMatrix d fun x => x.clearAcc a int
  | .accZero a m => modMatrix d fun x => x.setAcc a m 0
  | .macRead c a ret => M.look fun s =>
    let x := (s.chip.die d).matrix
    match c.sums (fun _ _ => c.downA (x.intNow c.asrc) (x.accRow c.asrc (c.r0 + a))) a with
    | none => M.skip
    | some r => M.seq (pendOf d sh ⟨p.due + 262, p.iss, .accAdd c.acc (c.row0 + a) r.1 (intTile c.tile.tfmt) ret⟩)
        (pendFlags d sh p.iss ret r.2)
  | .mtest reg fail => M.seq (M.iff (reg != 0) (modStream d sh fun y => { y with s := SMap.set 0 y.s reg (fail.setWidth 64) }))
      (selfTestResult d fail)
  | .kload .. => M.skip
  | .kstore .. => M.skip
  | .kstate _ => M.skip

/-! ### Landing-buffer entries (R40-R42) -/

/-- Write a scalar of a stream at once; physical 0 discards it. -/
def setS (d : Nat) (sh : Bool) (n : Nat) (v : Word) : M :=
  M.iff (n != 0) (modStream d sh fun y => { y with s := SMap.set 0 y.s n v })

/-- Take the head count of a queue (R44). -/
def Die.popHead (x : Die) (q : Nat) : Option (BitVec 32) × Die :=
  match x.counts q with
  | [] => (none, x)
  | c :: l => (some c, { x with queues := SMap.set [] x.queues q l })

/-- A LOOPQ opens its level with the count it popped, or its body is passed over (R158). -/
def openQueue (d : Nat) (sh : Bool) (n first last : Nat) (own : Bool) : M :=
  modStream d sh fun y =>
    if n = 0 then { y with pc := last + 1, block := if own then y.block else none }
    else { y with loops := ⟨first, last, .queue, 0, n - 1, 0, n⟩ :: y.loops }

/-- The data of an arrived entry is written in its named cycle (R41). -/
def landEntry (d : Nat) (e : Entry) : M :=
  M.seq (modDie d fun x => { x with entries := x.entries.filter fun f => f.id != e.id })
    (match e.what with
      | .word reg => setS d e.sh reg (rowWord e.data 0)
      | .row reg rotb => M.each (List.range 8) fun k =>
          if reg + k = 0 then M.skip else setS d e.sh (physS rotb (reg + k)) (rowWord e.data k)
      | .pop reg q => M.look fun s =>
          let r := (s.chip.die d).popHead q
          M.seq (modDie d fun _ => r.2) (setS d e.sh reg ((r.1.getD 0).setWidth 64))
      | .loopq q first last own => M.look fun s =>
          let r := (s.chip.die d).popHead q
          M.seq (modDie d fun _ => r.2) (openQueue d e.sh (r.1.getD 0).toNat first last own)
      | .node _ => M.skip
      | .recv bank row _ _ => M.iff (bank < Config.banks)
          (modStream d e.sh fun y => { y with wpend := y.wpend ++ [{
            due := max y.prog e.afterCyc, iss := e.iss, bank, row, be := allBytes, data := e.data, path := 6, recv := some e.id }] }))

/-- The entries named for the present program cycle of a stream, earliest issue first. -/
def Die.dueEntries (x : Die) (sh : Bool) : List Entry :=
  let y := if sh then x.shadow else x.main
  x.entries.filter fun e => e.sh == sh && e.due ≤ y.prog

/-- The entry asks for a count. -/
def Entry.pops (e : Entry) : Option Nat :=
  match e.what with
  | .pop _ q => some q
  | .loopq q _ _ _ => some q
  | _ => none

/-- A pop has arrived when its queue, after the pushes that land in the cycle, holds a count for it (R44, R267). -/
def popReady (x : Die) (sh : Bool) (q k : Nat) : Bool :=
  let y := if sh then x.shadow else x.main
  let landing := (y.pend.filter fun p => p.due ≤ y.prog && (match p.land with | .push r _ => r == q | _ => false)).length
  k < (x.counts q).length + landing

/-- Mark the pops of the present cycle that find their count. -/
def readyPops (d : Nat) (sh : Bool) : M :=
  modDie d fun x =>
    let due := x.dueEntries sh
    let entries := x.entries.map fun e => match e.pops with
      | some q =>
        let before := (due.takeWhile fun f => f.id != e.id).filter fun f => f.pops == some q
        if (due.any fun f => f.id == e.id) && popReady x sh q before.length then { e with arrived := true } else e
      | none => e
    { x with entries }

/-- What lands in one cycle, in issue order: results `ps` and entries `es`, each in that order; an entry of a bundle's Y slot
comes after the bundle's results (R27). -/
def inOrder (ps : List Pend) : List Entry → List (Pend ⊕ Entry)
  | [] => ps.map .inl
  | e :: es => (ps.takeWhile fun p => p.iss ≤ e.iss).map .inl ++ .inr e :: inOrder (ps.dropWhile fun p => p.iss ≤ e.iss) es

/-- The arrivals of the nodes that have retired in this package cycle are applied (R259). -/
def nodesArrive (d : Nat) : M :=
  modDie d fun x => if x.nodeArvs.isEmpty then x else { x.nodeArvs.foldl (fun y b => y.arrive b 1) x with nodeArvs := [] }

/-- The nodes that have retired in this package cycle arrive, and their flags are due in the die's next cycle, like those of any
operation that retires in this one (R67). -/
def nodesSettle (d : Nat) : M :=
  M.seq (nodesArrive d)
    (modDie d fun x => if x.nodeFlags = 0 then x else { x with nodeDue := x.nodeDue ||| x.nodeFlags, nodeFlags := 0 })
/-- The flags of nodes that are due are set (R67). -/
def nodesFlag (d : Nat) : M := modDie d fun x => if x.nodeDue = 0 then x else { x.orFlags x.nodeDue with nodeDue := 0 }

/-- The group of the save area that a landing writes (R294): a layout record or a vector register of the die's own stream, or a route
entry. -/
def Land.marks (sh : Bool) : Land → Option Nat
  | .tl n _ => if sh then none else some (n / 64)
  | .v n _ => if sh then none else some (8 + n / 64)
  | .xw n _ => some (40 + n / 64)
  | _ => none
/-- The groups that landings write are dirty. -/
def markGroups (d : Nat) (sh : Bool) (l : List Pend) : M :=
  let gs := l.filterMap fun p => p.land.marks sh
  M.iff (!gs.isEmpty) (modDie d fun x => { x with dirty := gs.foldl (fun b g => b ||| BitVec.ofNat 104 (2 ^ g)) x.dirty })

/-- Everything that lands in the present program cycle of a stream (R27, R40, R259, R267). DEDUCED, log entry 119. -/
def landCycle (d : Nat) (sh : Bool) : M :=
  M.look fun s =>
    let x := s.chip.die d
    let l := (if sh then x.shadow else x.main).due
    let es := x.dueEntries sh
    let some' (g : Nat) : M := M.each (l.filter fun p => p.land.group == g) (landOne d sh)
    M.all [M.iff (!l.isEmpty) (M.all
        [modStream d sh fun y => { y with pend := y.pend.filter fun p => p.land.isMace || y.prog < p.due }, markGroups d sh l, some' 3]),
      M.each (inOrder (l.filter fun p => p.land.group == 0) es) fun
        | .inl p => landOne d sh p
        | .inr e => landEntry d e,
      nodesArrive d, some' 1, some' 2, nodesFlag d]

end Sys2Proof.Machine
end

