-- ==== Sys2Proof/Machine/Score.lean ====
section
/-!
DEFINITION. The checking scoreboard (R29, R50): what an operation reads, which results are in flight, and the accesses that SBCHK
traps.
-/

namespace Sys2Proof.Machine

/-! ### Results in flight -/

/-- What a pending result writes; row 256 of a set stands for all its rows. -/
def Land.dests : Land → List Dest
  | .s n _ => [.s n]
  | .p n _ => [.p n]
  | .c n _ => [.c n]
  | .tl n _ => [.tl n]
  | .v n _ => [.v n]
  | .xw n _ => [.xw n]
  | .xread n _ _ _ => [.xw n]
  | .ep n _ => [.ep n]
  | .csr n _ => [.csr n]
  | .accAdd a m _ _ _ => [.acc a m]
  | .accRank a m _ _ => [.acc a m]
  | .accClear a _ => [.acc a 256]
  | .accZero a m => [.acc a m]
  | .macRead k r _ => [.acc k.acc (k.row0 + r)]
  | .kload .. => [.other]
  | .kstate _ => [.other]
  | .mtest r _ => if r = 0 then [] else [.s r]
  | _ => []

/-- What a landing-buffer entry writes. -/
def Entry.dests (e : Entry) : List Dest :=
  match e.what with
  | .word r => if r = 0 then [] else [.s r]
  | .row r rotb => (List.range 8).filterMap fun k => if r + k = 0 then none else some (.s (physS rotb (r + k)))
  | .pop r _ => if r = 0 then [] else [.s r]
  | .recv b r _ _ => [.wall b r]
  | _ => []

/-- A result in flight: where it goes, the cycle of its landing and of its issue. An MMAC row lands 262 cycles after its read. -/
structure Flight where
  dest : Dest
  due : Nat
  iss : Nat

/-- The cycle in which a pending result lands. -/
def Pend.lands (p : Pend) : Nat :=
  match p.land with
  | .macRead _ _ _ => p.due + 262
  | .xread _ k _ _ => p.due + (23 - k) + 7
  | _ => p.due

/-- Flights of pending results, of row writes and of entries. -/
def pendFlights (l : List Pend) : List Flight := (l.map fun p => p.land.dests.map fun d => ⟨d, p.lands, p.iss⟩).flatten
def wpendFlights (l : List WPend) : List Flight := l.map fun w => ⟨.wall w.bank w.row, w.due, w.iss⟩
def entryFlights (l : List Entry) : List Flight := (l.map fun e => e.dests.map fun d => ⟨d, e.due, e.iss⟩).flatten
/-- Everything in flight of the stream that issues. -/
def Die.flights (x : Die) : List Flight :=
  pendFlights x.ctx.pend ++ wpendFlights x.ctx.wpend ++ entryFlights (x.entries.filter fun e => e.sh == x.inShadow) ++
    (match x.solver with
      | some (due, n, p, _) => [⟨.xw n, due, due - 1200⟩] ++ (if p / 16 = x.inShadow.toNat then [⟨.p (p % 16), due, due - 1200⟩] else [])
      | none => [])

/-- Two destinations are one. -/
def Dest.hits : Dest → Dest → Bool
  | .acc a m, .acc b n => a == b && (m == n || m == 256 || n == 256)
  | a, b => a == b

/-! ### What an operation reads -/

/-- Physical registers behind names; s0 and p0 are constants. -/
def rdS (x : Ctx) (l : List Nat) : List Dest := (l.filter (· != 0)).map fun n => .s (physS x.rotb n)
def rdP (x : Ctx) (l : List Nat) : List Dest := (l.filter (· != 0)).map fun n => .p (physP x.rotb n)
def rdV (x : Ctx) (l : List Nat) : List Dest := l.map fun n => .v (physV x.rotb n)
/-- `n` registers from `k` on. -/
def regRun (k n : Nat) : List Nat := (List.range n).map (k + ·)

/-- Sources of a Y-slot memory form: record, coordinates, and `n` scalars from SX on. -/
def rdY (x : Ctx) (a : YArgs) (n : Nat) : List Dest := [.tl a.tl, .c a.c] ++ rdS x (regRun a.sx n)

/-- The unit of the first operation of the bundle's cascade; V[V1] enters it, through the pass units before it (R131). -/
def State.firstUnit (s : State) : Nat :=
  ((s.chip.cur.bundle.bind fun b => b.ops.findSome? fun p => p.2.vargs).map (·.unit)).getD 0
/-- Sources of a V-slot operation: V[V1] if it is the cascade's first, and `l`. -/
def rdU (s : State) (a : VArgs) (l : List Nat) : List Dest := rdV s.cx ((if a.unit = s.firstUnit then [a.v1] else []) ++ l)
/-- The random operand, when the operation rounds by it (R65, R178). -/
def rdR (s : State) (a : VArgs) : List Dest := if s.me.fpctl.rm = .sr && !a.hasSel && !a.ty then rdV s.cx [a.vr] else []

/-- Registers of a product or ranking command: operand word, scale vectors or offsets (R198, R202). -/
def rdM (x : Ctx) (a : MArgs) (groups scaled : Bool) : List Dest :=
  rdS x [a.ss] ++ rdV x ((if groups then [a.vs] else []) ++
    (if scaled && a.epb % 2 = 1 then regRun (if groups then a.vs + 1 else a.vs) ((a.len + 16) / 16) else []))

/-- Registers and records of a C-slot command (R233). -/
def rdC (s : State) (a : CArgs) (recs : List Nat) (words : Nat) : List Dest :=
  recs.map .tl ++ [.c a.ca, .c a.cb, .c a.cw] ++ rdS s.cx (regRun a.ss words)
/-- The coordinate register XC that the operand word of an indexed command names (R233). -/
def rdXc (s : State) (a : CArgs) : Dest := .c (fld (s.cx.rs a.ss).toNat 25 5)

/-- The registers an operation reads at issue. DEDUCED, log entry 148. -/
def opReads (i : Instr) (s : State) : List Dest :=
  let x := s.cx
  match i with
  | .add _ a b | .sub _ a b | .mul _ a b | .mulhs _ a b | .mulhu _ a b | .divs _ a b | .divu _ a b | .rems _ a b | .remu _ a b
  | .and _ a b | .or _ a b | .xor _ a b | .andn _ a b | .shl _ a b | .shr _ a b | .sar _ a b | .rol _ a b | .min _ a b
  | .max _ a b | .minu _ a b | .maxu _ a b | .cmp _ _ a b => rdS x [a, b]
  | .clz _ a | .popc _ a | .addi _ a _ | .andi _ a _ | .ori _ a _ | .xori _ a _ | .shli _ a _ | .shri _ a _ | .sari _ a _
  | .ext _ a _ _ | .exts _ a _ _ | .cmpi _ _ a _ | .jmpr a | .ret a | .loop a _ | .loopswp a _ _ | .rcbld _ a => rdS x [a]
  | .sel _ p a b => rdS x [a, b] ++ rdP x [p]
  | .rotm _ a b c => rdS x [a, b, c]
  | .movk d _ _ => rdS x [d]
  | .ins d a _ _ => rdS x [d, a]
  | .pand _ a b _ _ | .por _ a b _ _ | .pxor _ a b _ _ | .pandn _ a b _ _ => rdP x [a, b]
  | .ldw _ tl c _ | .ldrow _ tl c _ => [.tl tl, .c c]
  | .stw sx tl c _ => [.tl tl, .c c] ++ rdS x [sx]
  | .strow sx tl c _ => [.tl tl, .c c] ++ rdS x (regRun sx 8)
  | .csrr _ n | .csrrp _ n => [.csr n]
  | .csrw sx _ | .csrwp sx _ => rdS x [sx]
  | .br p _ _ => rdP x [p]
  | .aread tl c | .awrite tl c | .adiag tl c _ | .xload _ tl c => [.tl tl, .c c]
  | .arw tr cr tw cw => [.tl tr, .c cr, .tl tw, .c cw]
  | .tlw _ sx => rdS x (regRun sx 12)
  | .tlr tl _ => [.tl tl]
  | .cset c _ sx => .c c :: rdS x [sx]
  | .cget c _ _ | .cinc c _ _ => [.c c]
  | .cstep c b => [.c c, .c b]
  | .xsolve _ vs _ => rdV x [vs]
  | .xsave n tl c => [.tl tl, .c c, .xw n]
  | .vadd a | .vsub a | .vmul a => rdU s a [a.v2] ++ rdR s a
  | .vfma a => rdU s a [a.v2, a.v3] ++ rdR s a
  | .vmin a | .vmax a | .vand a | .vor a | .vxor a | .vshl a | .vshr a | .vsar a | .vcmpeq a | .vcmplt a | .vcmple a | .vcmpne a =>
    rdU s a [a.v2]
  | .vmov a => rdV x [a.v2]
  | .vsel a => rdU s a [a.v2, a.vr]
  | .vabs a | .vneg a | .vnot a => rdU s a []
  | .vcvt a | .vquant a | .vdeq a => rdU s a [] ++ rdR s a
  | .vexp2 a | .vlog2 a | .vrcp a | .vrsq a | .vgelu a | .vredr a | .vredc a | .vscanr a | .vscanc a | .vunpk a | .vmovs a => rdV x [a.v1]
  | .vrotr a | .vrotc a | .vbcr a | .vbcc a => rdV x [a.v1] ++ (if bitOf a.x.toNat 12 then rdS x [a.ss] else [])
  | .vst a => rdV x (regRun a.v1 (a.xf 0 2 + 1))
  | .vsplat a | .viota a | .vrand a => rdS x [a.ss]
  | .vpack a => rdV x [a.v1, a.v2]
  | .mma a => rdM x a false true
  | .mmag a => rdM x a true true
  | .mmac a => rdM x a false false
  | .mrank a => rdM x a false false
  | .mepi a | .mdrain a =>
    let row0 := fld (x.rs a.ss).toNat 0 8
    let b := SMap.get 0 s.me.matrix.ep a.epb
    rdS x [a.ss] ++ [.ep a.epb] ++ (if bitOf b.toNat 9 || bitOf b.toNat 10 then rdV x [epF b 16 11] else []) ++
      (if epF b 4 3 = 5 then rdV x [a.vs] else []) ++ (regRun row0 (a.len + 1)).map (.acc a.acc)
  | .mshape a => rdS x [a.ss]
  | .kload a | .kstore a | .ktopk a | .kstep a | .kstateWr a => rdS x [a.ss]
  | .kstateRd _ => [.other]
  | .ccopy a | .ccopyf a => rdC s a [a.tla, a.tlb] 1
  | .cfill a => rdC s a [a.tla] 1
  | .cgather a | .cscatter a => rdXc s a :: rdC s a [a.tla, a.tlb, s.xt a] 1
  | .cdispatch a => rdXc s a :: rdC s a ([a.tlb, s.xt a, s.xt a + 1] ++ s.groups a a.tla) 2
  | .ccombine a => rdXc s a :: rdC s a ([a.tla, s.xt a, s.xt a + 1, s.xt a + 2] ++ s.groups a a.tlb) 2
  | .migrate a => [.tl a.tla, .c a.ca] ++ rdS x [a.ss]
  | .ldrem a | .scld a | .plread a | .mmld a => rdY x a 0
  | .strem a | .mmst a => rdY x a (if a.fn = 1 then 8 else 1)
  | .atom a | .scrmw a => rdY x a (if a.fn = 7 then 2 else 1)
  | .red a | .osend a => rdY x a 8
  | .scst a | .plwrite a | .send a | .recv a => rdY x a 1
  | .monclr a => if a.fn = 1 then [] else rdY x a 0
  | .waita tl c sx _ => [.tl tl, .c c] ++ rdS x [sx]
  | .drain _ sx | .fenced _ sx | .binit _ sx _ _ | .barr _ sx _ _ | .bwait _ sx _ _ | .cqpush _ sx | .ostat _ sx | .atcinv _ sx
  | .fwait _ sx | .slogreplay _ sx => rdS x [sx]
  | _ => []

/-- The route store entries a header names, and the predicate its descriptor samples. -/
def headReads (b : Bundle) (x : Ctx) : List Dest :=
  let e (r : Nat) : List Dest := if r % 4 = 3 then [.xw (fld r 2 12)] else []
  e b.xr ++ e b.xw ++ (if b.pbv then rdP x [b.pbp] else [])

/-! ### The checks -/

/-- Wall rows that an operation has come to read, with the cycle of the read: the ports reserved since `u`.
DEDUCED, log entry 94. -/
def newReads (u v : State) : List (Dest × Nat) :=
  ((v.cx.resv.take (v.cx.resv.length - u.cx.resv.length)).filter fun r => !r.write).map fun r => (.wall r.bank r.row, r.cyc)
/-- Rows of its source set that an MMAC reads, with the cycles (R203). -/
def macReads (u v : State) : List (Dest × Nat) :=
  (v.cx.pend.drop u.cx.pend.length).filterMap fun p => match p.land with
    | .macRead c a _ => some (.acc c.asrc (c.r0 + a), p.due)
    | _ => none
/-- The registers that a held operation writes when its hold ends, in the cycle after its issue at the earliest (R42). -/
def Wait.dests (w : Wait) : List Dest :=
  let sc (n : Nat) : List Dest := if n = 0 then [] else [.s n]
  let pr (n : Nat) : List Dest := if n = 0 then [] else [.p n]
  match w with
  | .bwait _ _ _ pd sd => sc sd ++ pr pd
  | .waita _ _ _ pd sx => sc sx ++ pr pd
  | .fwait _ _ sx => sc sx
  | .rcbld _ reg _ => sc reg
  | .replay _ _ _ sx => sc sx
  | _ => []
/-- Results that an operation has put in flight since `u`. -/
def newFlights (u v : State) : List Flight :=
  (((v.cx.waits.drop u.cx.waits.length).map Wait.dests).flatten.map fun d => ⟨d, u.cx.prog + 1, u.cx.prog⟩) ++ pendFlights (v.cx.pend.drop u.cx.pend.length) ++ wpendFlights (v.cx.wpend.drop u.cx.wpend.length) ++
    entryFlights (v.me.entries.drop u.me.entries.length)

/-- A read in cycle `t` does not see a flight: a register result lands at the start of its cycle, a row at the end (R78). -/
def unseen (f : Flight) (d : Dest) (t : Nat) : Bool :=
  f.dest.hits d && (match d with | .wall _ _ => t ≤ f.due | _ => t < f.due)

/-- The scoreboard lets a read in cycle `t` pass: EN looks at every earlier bundle, XB at those before the last pre-emption point. -/
def readOk (s : State) (old : List Flight) (d : Dest) (t : Nat) : Bool :=
  let sb := s.me.sbchk.toNat
  !(old.any fun f => unseen f d t && (bitOf sb 0 || (bitOf sb 2 && (match s.me.boundary with | some b => f.iss < b | none => false))))

/-- The scoreboard lets a new result pass: it lands before no result to the same place that WAW or XB looks at. -/
def writeOk (s : State) (old : List Flight) (g : Flight) : Bool :=
  let sb := s.me.sbchk.toNat
  !(old.any fun f => f.dest.hits g.dest && g.due < f.due &&
    (bitOf sb 1 || (bitOf sb 2 && (match s.me.boundary with | some b => f.iss < b | none => false))))

/-- One slot operation passes (R29): `s` is the state the bundle found, `u` and `v` that before and after the operation.
DEDUCED, log entry 93. DEDUCED, log entry 95. -/
def scoreOk (s u v : State) (i : Instr) : Bool :=
  s.me.sbchk == 0 ||
    (let old := s.me.flights
     ((opReads i s).all fun d => readOk s old d s.cx.prog) && ((newReads u v ++ macReads u v).all fun p => readOk s old p.1 p.2) &&
       (newFlights u v).all (writeOk s old))

/-- A bundle's header passes. DEDUCED, log entry 92. -/
def headOk (s : State) (b : Bundle) : Bool :=
  s.me.sbchk == 0 || ((headReads b s.cx).all fun d => readOk s s.me.flights d s.cx.prog)

end Sys2Proof.Machine
end

