-- ==== Sys2Proof/Machine/Hold.lean ====
section
/-!
DEFINITION. Holds (R42, R43): the frozen cycle of a die, the end of what it waits for, load faults at the named cycle (R251, R336),
the fault budget (R283), and the issue of wheel operations (R109).
-/

namespace Sys2Proof.Machine

/-! ### The engines of a package cycle -/

/-- What runs in a die in every package cycle, held or not (R42): nodes, follow-on commands, and requests that a fence has let go. -/
def engines (d : Nat) : M := M.all [copyTick d, followTick d, releaseAccs d, pruneFences d]

/-! ### The end of a wait (R42) -/

/-- What a stream of die `d` waits for has happened, and the wait ends. -/
def checkWait (d : Nat) (sh : Bool) (w : Wait) : M :=
  M.look fun s =>
    let c := s.chip
    let ends (b : Bool) : M := M.iff b (endWait d sh w)
    match w with
    | .fence accs nodes => ends (cleared c d sh accs nodes 0)
    | .drain mask accs => ends (!(accs.any fun i => c.pendingAt mask i))
    | .nodes ids => ends (!(ids.any fun i => (c.die d).alive i))
    | .bwait b v _ pd sd => endBwait d sh w b v pd sd false
    | .waita m lim lm pd sx => waitaStep d sh w m lim (match lm with | some t => t < c.now | none => false) pd sx
    | .fwait mask _ sx => endFwait d sh w mask sx false
    | .window => ends (c.die d).copy.waiting.isEmpty
    | .osend dest => ends (!((SMap.get [] c.owait dest).any fun r => r.die == d))
    | .sideLog u => ends (!((c.die d).logOut.any fun p => p.1 == u))
    | .csr n v => ends (!(c.events.any fun e => e.2 == .packageCsrUpdate d n v))
    | .rcbld due reg n => M.iff (due ≤ c.now) (M.seq (endWait d sh w) (
        -- the read waits for a frozen page, and for a pseudo-channel that takes no request (R330, R379, R384)
        if s.blockHeld n != 0 then modStream d sh fun y => { y with waits := y.waits ++ [.rcbld (c.now + s.blockHeld n) reg n] }
        else loadRegion n fun st => landS d sh reg (BitVec.ofNat 64 st)))
    | .atcinv id => ends (!(c.invals.any fun v => v.id == id))
    | .replay k u _ reg =>
      let l := (c.die k).log u
      let stuck := match l with
        | e :: _ => !e.disc && (match c.acc e.acc with | some a => a.stage == .logged | none => false)
        | [] => true
      M.iff (stuck && !(c.events.any fun e => e.2 == .sideLogReplay k u))
        (M.seq (endWait d sh w) (landS d sh reg (BitVec.ofNat 64 l.length)))
    | .governor _ => M.skip
    | .phaseEnd => M.skip
    | .wheel => M.skip

/-- Every wait of a die is looked at. -/
def checkWaits (d : Nat) : M := eachWait d (checkWait d)

/-! ### Load faults (R251, R263, R336, R350) -/

/-- A load named for the present cycle cannot arrive: the die takes the exception of class L, or UNCORRECTABLE.
DEDUCED, log entry 54. -/
def lateFault (d : Nat) : M :=
  M.look fun s =>
    let x := s.chip.die d
    let sh := x.inShadow
    match (if !sh && x.trap.isSome then [] else x.dueEntries sh).filterMap fun e => if e.arrived then none else e.fault.map fun c => (e, c) with
    | [] => M.skip
    | (e, code) :: _ =>
      let clear := modDie d fun y =>
        let entries := y.entries.map fun f => if f.id = e.id then { f with fault := none } else f
        { y with entries }
      match s.chip.accs.find? fun a => a.entry == some e.id with
      | none => M.seq clear (takeTrap d (e.trap code (match e.what with
          | .recv _ _ src _ => BitVec.ofNat 512 (pack [(4, src), (4, 0), (8, 0), (8, (s.chip.die src).inc.toNat)])
          | _ => 0)))
      | some a =>
        if code = .uncorrectable then M.seq clear (uncorrectable a)
        else M.seq clear (takeTrap d { a.trap code 'L' (accDetail a code) (accRow3 s.chip a code) 0 with entry := some a.id })

/-! ### The frozen cycle -/

/-- The die's own stream is held in this package cycle: on a wait, a late request or sort, or while a fault is served (R42). -/
def Die.frozen (x : Die) : Bool :=
  x.alight && (x.run == .running || x.run == .barrier || x.run == .ended || x.run == .draining) &&
    (x.inShadow || x.trap.isSome || !x.main.waits.isEmpty || (x.run != .barrier && (x.late false || (x.run != .draining && x.sortLate))))

/-- The power governor holds the die (R393). -/
def Die.governed (x : Die) : Bool := x.main.waits.any Wait.isGovernor

/-- A held package cycle counts in HOLDCNT (R43), toward FBT (R283), and in GOVCYC while the governor holds the die (R393).
DEDUCED, log entry 98. -/
def holdTick (d : Nat) : M := modDie d fun x => { x with
  holdcnt := x.holdcnt + 1, heldFor := x.heldFor + 1,
  power := if x.governed then { x.power with govcyc := x.power.govcyc + 1 } else x.power }

/-- A party's hold has outlasted FBT (R49, R283); what has ended it in this cycle wins (R353). -/
def budget (d : Nat) : M :=
  M.look fun s =>
    let x := s.chip.die d
    M.iff (d < 8 && x.terms.fbt < x.heldFor && x.frozen && !(s.chip.events.any fun e => e.2 == .holdTimeout d))
      (schedIn 0 (.holdTimeout d))

/-- NAMED_CYCLE_HOLD (R42): a package cycle of a die that holds; what is asynchronous goes on. DEDUCED, log entry 100. -/
def execNamedCycleHold (die : Nat) (s : State) : Host.Outcome State Fault Refusal :=
  onDie die s (M.iff (s.chip.die die).frozen
    (M.all [holdTick die, M.iff ((s.chip.die die).inShadow || (s.chip.die die).run != .barrier) (lateFault die), engines die, M.look fun s => M.iff ((s.chip.die die).run != .draining) (maceStep die true),
      checkWaits die, budget die]))

/-! ### Wheel operations (R107, R109) -/

/-- A wheel operation may issue in package cycle `t`: in a position of die `d` that holds none of its own. -/
def wheelOpen (x : Die) (d t : Nat) : Bool := t / 2 % 64 / 8 == d && x.lastSc != some (t / 2)
/-- The first cycle of the next such position after `t`. -/
def wheelNext (x : Die) (d t : Nat) : Nat :=
  ((List.range 130).map (fun k => 2 * (t / 2 + 1 + k))).find? (wheelOpen x d) |>.getD (t + 1)

/-- WHEEL_POSITION_ISSUE (R109): the hold of a wheel operation ends, and its bundle issues in this cycle. -/
def execWheelPositionIssue (die : Nat) (s : State) : Host.Outcome State Fault Refusal :=
  onDie die s (M.iff (wheelOpen (s.chip.die die) die s.chip.now)
    (M.seq (endWait die false .wheel) (endWait die true .wheel)))

end Sys2Proof.Machine
end

