-- ==== Sys2Proof/Machine/Dispatch.lean ====
section
/-!
DEFINITION. The dispatch of instructions to their meanings: one arm per constructor.
-/

namespace Sys2Proof.Machine

/-- What an instruction or an event does to a state. -/
def exec (i : Instr) (s : State) : Host.Outcome State Fault Refusal :=
  match i with
  | .nop => Sys2Proof.Machine.execNop s
  | .add sd sa sb => Sys2Proof.Machine.execAdd sd sa sb s
  | .sub sd sa sb => Sys2Proof.Machine.execSub sd sa sb s
  | .mul sd sa sb => Sys2Proof.Machine.execMul sd sa sb s
  | .mulhs sd sa sb => Sys2Proof.Machine.execMulhs sd sa sb s
  | .mulhu sd sa sb => Sys2Proof.Machine.execMulhu sd sa sb s
  | .divs sd sa sb => Sys2Proof.Machine.execDivs sd sa sb s
  | .divu sd sa sb => Sys2Proof.Machine.execDivu sd sa sb s
  | .rems sd sa sb => Sys2Proof.Machine.execRems sd sa sb s
  | .remu sd sa sb => Sys2Proof.Machine.execRemu sd sa sb s
  | .and sd sa sb => Sys2Proof.Machine.execAnd sd sa sb s
  | .or sd sa sb => Sys2Proof.Machine.execOr sd sa sb s
  | .xor sd sa sb => Sys2Proof.Machine.execXor sd sa sb s
  | .andn sd sa sb => Sys2Proof.Machine.execAndn sd sa sb s
  | .shl sd sa sb => Sys2Proof.Machine.execShl sd sa sb s
  | .shr sd sa sb => Sys2Proof.Machine.execShr sd sa sb s
  | .sar sd sa sb => Sys2Proof.Machine.execSar sd sa sb s
  | .rol sd sa sb => Sys2Proof.Machine.execRol sd sa sb s
  | .min sd sa sb => Sys2Proof.Machine.execMin sd sa sb s
  | .max sd sa sb => Sys2Proof.Machine.execMax sd sa sb s
  | .minu sd sa sb => Sys2Proof.Machine.execMinu sd sa sb s
  | .maxu sd sa sb => Sys2Proof.Machine.execMaxu sd sa sb s
  | .clz sd sa => Sys2Proof.Machine.execClz sd sa s
  | .popc sd sa => Sys2Proof.Machine.execPopc sd sa s
  | .sel sd p sa sb => Sys2Proof.Machine.execSel sd p sa sb s
  | .rotm sd sa sb sc => Sys2Proof.Machine.execRotm sd sa sb sc s
  | .addi sd sa imm => Sys2Proof.Machine.execAddi sd sa imm s
  | .andi sd sa imm => Sys2Proof.Machine.execAndi sd sa imm s
  | .ori sd sa imm => Sys2Proof.Machine.execOri sd sa imm s
  | .xori sd sa imm => Sys2Proof.Machine.execXori sd sa imm s
  | .shli sd sa imm => Sys2Proof.Machine.execShli sd sa imm s
  | .shri sd sa imm => Sys2Proof.Machine.execShri sd sa imm s
  | .sari sd sa imm => Sys2Proof.Machine.execSari sd sa imm s
  | .movk sd hw imm => Sys2Proof.Machine.execMovk sd hw imm s
  | .ext sd sa pos len => Sys2Proof.Machine.execExt sd sa pos len s
  | .exts sd sa pos len => Sys2Proof.Machine.execExts sd sa pos len s
  | .ins sd sa pos len => Sys2Proof.Machine.execIns sd sa pos len s
  | .cmp pd cond sa sb => Sys2Proof.Machine.execCmp pd cond sa sb s
  | .cmpi pd cond sa imm => Sys2Proof.Machine.execCmpi pd cond sa imm s
  | .pand pd pa pb na nb => Sys2Proof.Machine.execPand pd pa pb na nb s
  | .por pd pa pb na nb => Sys2Proof.Machine.execPor pd pa pb na nb s
  | .pxor pd pa pb na nb => Sys2Proof.Machine.execPxor pd pa pb na nb s
  | .pandn pd pa pb na nb => Sys2Proof.Machine.execPandn pd pa pb na nb s
  | .pset pd val => Sys2Proof.Machine.execPset pd val s
  | .ldw sx tl c w => Sys2Proof.Machine.execLdw sx tl c w s
  | .stw sx tl c w => Sys2Proof.Machine.execStw sx tl c w s
  | .ldrow sx tl c w => Sys2Proof.Machine.execLdrow sx tl c w s
  | .strow sx tl c w => Sys2Proof.Machine.execStrow sx tl c w s
  | .csrr sx csr => Sys2Proof.Machine.execCsrr sx csr s
  | .csrw sx csr => Sys2Proof.Machine.execCsrw sx csr s
  | .csrrp sx csr => Sys2Proof.Machine.execCsrrp sx csr s
  | .csrwp sx csr => Sys2Proof.Machine.execCsrwp sx csr s
  | .br p t off => Sys2Proof.Machine.execBr p t off s
  | .jmp addr => Sys2Proof.Machine.execJmp addr s
  | .jmpr sa => Sys2Proof.Machine.execJmpr sa s
  | .call sd off => Sys2Proof.Machine.execCall sd off s
  | .ret sa => Sys2Proof.Machine.execRet sa s
  | .loop sa len => Sys2Proof.Machine.execLoop sa len s
  | .loopq q len => Sys2Proof.Machine.execLoopq q len s
  | .loopswp sa len e => Sys2Proof.Machine.execLoopswp sa len e s
  | .lbrk => Sys2Proof.Machine.execLbrk s
  | .ssend lc => Sys2Proof.Machine.execSsend lc s
  | .trap code => Sys2Proof.Machine.execTrap code s
  | .tret => Sys2Proof.Machine.execTret s
  | .rcbld sd sa => Sys2Proof.Machine.execRcbld sd sa s
  | .aread tl c => Sys2Proof.Machine.execAread tl c s
  | .awrite tl c => Sys2Proof.Machine.execAwrite tl c s
  | .arw xtlr cr xtlw cw => Sys2Proof.Machine.execArw xtlr cr xtlw cw s
  | .adiag tl c wr => Sys2Proof.Machine.execAdiag tl c wr s
  | .tlw tl sx => Sys2Proof.Machine.execTlw tl sx s
  | .tlr tl sx => Sys2Proof.Machine.execTlr tl sx s
  | .cset c d sx => Sys2Proof.Machine.execCset c d sx s
  | .cget c d sx => Sys2Proof.Machine.execCget c d sx s
  | .cinc c d imm => Sys2Proof.Machine.execCinc c d imm s
  | .cstep c b => Sys2Proof.Machine.execCstep c b s
  | .xsolve xw vs pd => Sys2Proof.Machine.execXsolve xw vs pd s
  | .xsolveComplete die => Sys2Proof.Machine.execXsolveComplete die s
  | .xload xw tl c => Sys2Proof.Machine.execXload xw tl c s
  | .xsave xw tl c => Sys2Proof.Machine.execXsave xw tl c s
  | .vadd a => Sys2Proof.Machine.execVadd a s
  | .vsub a => Sys2Proof.Machine.execVsub a s
  | .vmul a => Sys2Proof.Machine.execVmul a s
  | .vfma a => Sys2Proof.Machine.execVfma a s
  | .vmin a => Sys2Proof.Machine.execVmin a s
  | .vmax a => Sys2Proof.Machine.execVmax a s
  | .vabs a => Sys2Proof.Machine.execVabs a s
  | .vneg a => Sys2Proof.Machine.execVneg a s
  | .vand a => Sys2Proof.Machine.execVand a s
  | .vor a => Sys2Proof.Machine.execVor a s
  | .vxor a => Sys2Proof.Machine.execVxor a s
  | .vnot a => Sys2Proof.Machine.execVnot a s
  | .vshl a => Sys2Proof.Machine.execVshl a s
  | .vshr a => Sys2Proof.Machine.execVshr a s
  | .vsar a => Sys2Proof.Machine.execVsar a s
  | .vsel a => Sys2Proof.Machine.execVsel a s
  | .vcmpeq a => Sys2Proof.Machine.execVcmpeq a s
  | .vcmplt a => Sys2Proof.Machine.execVcmplt a s
  | .vcmple a => Sys2Proof.Machine.execVcmple a s
  | .vcmpne a => Sys2Proof.Machine.execVcmpne a s
  | .vmov a => Sys2Proof.Machine.execVmov a s
  | .vcvt a => Sys2Proof.Machine.execVcvt a s
  | .vquant a => Sys2Proof.Machine.execVquant a s
  | .vdeq a => Sys2Proof.Machine.execVdeq a s
  | .vexp2 a => Sys2Proof.Machine.execVexp2 a s
  | .vlog2 a => Sys2Proof.Machine.execVlog2 a s
  | .vrcp a => Sys2Proof.Machine.execVrcp a s
  | .vrsq a => Sys2Proof.Machine.execVrsq a s
  | .vgelu a => Sys2Proof.Machine.execVgelu a s
  | .vrotr a => Sys2Proof.Machine.execVrotr a s
  | .vrotc a => Sys2Proof.Machine.execVrotc a s
  | .vbcr a => Sys2Proof.Machine.execVbcr a s
  | .vbcc a => Sys2Proof.Machine.execVbcc a s
  | .vredr a => Sys2Proof.Machine.execVredr a s
  | .vredc a => Sys2Proof.Machine.execVredc a s
  | .vscanr a => Sys2Proof.Machine.execVscanr a s
  | .vscanc a => Sys2Proof.Machine.execVscanc a s
  | .vld a => Sys2Proof.Machine.execVld a s
  | .vst a => Sys2Proof.Machine.execVst a s
  | .vmovs a => Sys2Proof.Machine.execVmovs a s
  | .vsplat a => Sys2Proof.Machine.execVsplat a s
  | .viota a => Sys2Proof.Machine.execViota a s
  | .vrand a => Sys2Proof.Machine.execVrand a s
  | .vpack a => Sys2Proof.Machine.execVpack a s
  | .vunpk a => Sys2Proof.Machine.execVunpk a s
  | .mloadb a => Sys2Proof.Machine.execMloadb a s
  | .mma a => Sys2Proof.Machine.execMma a s
  | .mmag a => Sys2Proof.Machine.execMmag a s
  | .mmac a => Sys2Proof.Machine.execMmac a s
  | .mrank a => Sys2Proof.Machine.execMrank a s
  | .mzero a => Sys2Proof.Machine.execMzero a s
  | .mepi a => Sys2Proof.Machine.execMepi a s
  | .mepiLd a => Sys2Proof.Machine.execMepiLd a s
  | .mdrain a => Sys2Proof.Machine.execMdrain a s
  | .mshape a => Sys2Proof.Machine.execMshape a s
  | .mstat a => Sys2Proof.Machine.execMstat a s
  | .mtest a => Sys2Proof.Machine.execMtest a s
  | .selftestCnt die => Sys2Proof.Machine.execSelftestCnt die s
  | .followOnStart die => Sys2Proof.Machine.execFollowOnStart die s
  | .followOnRetire die => Sys2Proof.Machine.execFollowOnRetire die s
  | .kload a => Sys2Proof.Machine.execKload a s
  | .ksort a => Sys2Proof.Machine.execKsort a s
  | .kstep a => Sys2Proof.Machine.execKstep a s
  | .kmerge a => Sys2Proof.Machine.execKmerge a s
  | .ktopk a => Sys2Proof.Machine.execKtopk a s
  | .kstore a => Sys2Proof.Machine.execKstore a s
  | .kstateRd a => Sys2Proof.Machine.execKstateRd a s
  | .kstateWr a => Sys2Proof.Machine.execKstateWr a s
  | .ccopy a => Sys2Proof.Machine.execCcopy a s
  | .ccopyf a => Sys2Proof.Machine.execCcopyf a s
  | .cfill a => Sys2Proof.Machine.execCfill a s
  | .cgather a => Sys2Proof.Machine.execCgather a s
  | .cscatter a => Sys2Proof.Machine.execCscatter a s
  | .cdispatch a => Sys2Proof.Machine.execCdispatch a s
  | .ccombine a => Sys2Proof.Machine.execCcombine a s
  | .cwait a => Sys2Proof.Machine.execCwait a s
  | .cstatus a => Sys2Proof.Machine.execCstatus a s
  | .migrate a => Sys2Proof.Machine.execMigrate a s
  | .nodeLaunch die node => Sys2Proof.Machine.execNodeLaunch die node s
  | .copyRowArrival acc => Sys2Proof.Machine.execCopyRowArrival acc s
  | .nodeRetire die node => Sys2Proof.Machine.execNodeRetire die node s
  | .ldrem a => Sys2Proof.Machine.execLdrem a s
  | .strem a => Sys2Proof.Machine.execStrem a s
  | .atom a => Sys2Proof.Machine.execAtom a s
  | .scrmw a => Sys2Proof.Machine.execScrmw a s
  | .red a => Sys2Proof.Machine.execRed a s
  | .scld a => Sys2Proof.Machine.execScld a s
  | .scst a => Sys2Proof.Machine.execScst a s
  | .wheelPositionIssue die => Sys2Proof.Machine.execWheelPositionIssue die s
  | .drain q sx => Sys2Proof.Machine.execDrain q sx s
  | .fenced q sx => Sys2Proof.Machine.execFenced q sx s
  | .fencep sm dm => Sys2Proof.Machine.execFencep sm dm s
  | .binit b sx pd sd => Sys2Proof.Machine.execBinit b sx pd sd s
  | .barr b sx pd sd => Sys2Proof.Machine.execBarr b sx pd sd s
  | .bwait b sx pd sd => Sys2Proof.Machine.execBwait b sx pd sd s
  | .bwaitTimeout die => Sys2Proof.Machine.execBwaitTimeout die s
  | .send a => Sys2Proof.Machine.execSend a s
  | .recv a => Sys2Proof.Machine.execRecv a s
  | .waita tl c sx pd => Sys2Proof.Machine.execWaita tl c sx pd s
  | .waitaTimeout die => Sys2Proof.Machine.execWaitaTimeout die s
  | .monitorTrigger die mon => Sys2Proof.Machine.execMonitorTrigger die mon s
  | .monclr a => Sys2Proof.Machine.execMonclr a s
  | .cqpush q sx => Sys2Proof.Machine.execCqpush q sx s
  | .cqpop q sx => Sys2Proof.Machine.execCqpop q sx s
  | .osend a => Sys2Proof.Machine.execOsend a s
  | .ostat q sx => Sys2Proof.Machine.execOstat q sx s
  | .atcinv q sx => Sys2Proof.Machine.execAtcinv q sx s
  | .plread a => Sys2Proof.Machine.execPlread a s
  | .plwrite a => Sys2Proof.Machine.execPlwrite a s
  | .fwait q sx => Sys2Proof.Machine.execFwait q sx s
  | .fwaitTimeout die => Sys2Proof.Machine.execFwaitTimeout die s
  | .firmwareEvent bit => Sys2Proof.Machine.execFirmwareEvent bit s
  | .mmld a => Sys2Proof.Machine.execMmld a s
  | .mmst a => Sys2Proof.Machine.execMmst a s
  | .slogreplay q sx => Sys2Proof.Machine.execSlogreplay q sx s
  | .landingArrival acc => Sys2Proof.Machine.execLandingArrival acc s
  | .namedCycleHold die => Sys2Proof.Machine.execNamedCycleHold die s
  | .packageBarrierComplete launch => Sys2Proof.Machine.execPackageBarrierComplete launch s
  | .commPhaseEnd die => Sys2Proof.Machine.execCommPhaseEnd die s
  | .redWindowExpire die entry => Sys2Proof.Machine.execRedWindowExpire die entry s
  | .flitReceive die link flit => Sys2Proof.Machine.execFlitReceive die link flit s
  | .msgRd acc => Sys2Proof.Machine.execMsgRd acc s
  | .msgWr acc => Sys2Proof.Machine.execMsgWr acc s
  | .msgAt acc => Sys2Proof.Machine.execMsgAt acc s
  | .msgRs acc => Sys2Proof.Machine.execMsgRs acc s
  | .msgXf acc => Sys2Proof.Machine.execMsgXf acc s
  | .msgMg kind => Sys2Proof.Machine.execMsgMg kind s
  | .routeNotice acc home => Sys2Proof.Machine.execRouteNotice acc home s
  | .discover => Sys2Proof.Machine.execDiscover s
  | .walkerResolve acc => Sys2Proof.Machine.execWalkerResolve acc s
  | .start port sv => Sys2Proof.Machine.execStart port sv s
  | .svDrop die port => Sys2Proof.Machine.execSvDrop die port s
  | .launchPlace launch => Sys2Proof.Machine.execLaunchPlace launch s
  | .completionWord launch => Sys2Proof.Machine.execCompletionWord launch s
  | .sliceEnd launch => Sys2Proof.Machine.execSliceEnd launch s
  | .preemptionPoint die => Sys2Proof.Machine.execPreemptionPoint die s
  | .contextRestore launch => Sys2Proof.Machine.execContextRestore launch s
  | .holdTimeout die => Sys2Proof.Machine.execHoldTimeout die s
  | .shadowEntry die => Sys2Proof.Machine.execShadowEntry die s
  | .sideLogReplay die unit => Sys2Proof.Machine.execSideLogReplay die unit s
  | .atsResponse die vpage grant => Sys2Proof.Machine.execAtsResponse die vpage grant s
  | .atsInvalidation va size => Sys2Proof.Machine.execAtsInvalidation va size s
  | .pageRequestGrant die vpage granted => Sys2Proof.Machine.execPageRequestGrant die vpage granted s
  | .hostMemoryAccess port addr write => Sys2Proof.Machine.execHostMemoryAccess port addr write s
  | .semRead reader => Sys2Proof.Machine.execSemRead reader s
  | .semWrite writer val => Sys2Proof.Machine.execSemWrite writer val s
  | .rcbsync port region => Sys2Proof.Machine.execRcbsync port region s
  | .controlPortLinkReset port => Sys2Proof.Machine.execControlPortLinkReset port s
  | .packageCsrUpdate die csr val => Sys2Proof.Machine.execPackageCsrUpdate die csr val s
  | .directoryHeaderWrite die => Sys2Proof.Machine.execDirectoryHeaderWrite die s
  | .directoryRootWrite die index => Sys2Proof.Machine.execDirectoryRootWrite die index s
  | .sweeperVisit die => Sys2Proof.Machine.execSweeperVisit die s
  | .heatWriteback die leaf => Sys2Proof.Machine.execHeatWriteback die leaf s
  | .cloveStart die migration => Sys2Proof.Machine.execCloveStart die migration s
  | .migrationRoundEnd die migration => Sys2Proof.Machine.execMigrationRoundEnd die migration s
  | .freezeFinalCopy die migration => Sys2Proof.Machine.execFreezeFinalCopy die migration s
  | .migrationCommit die migration => Sys2Proof.Machine.execMigrationCommit die migration s
  | .freezeTimeout die migration => Sys2Proof.Machine.execFreezeTimeout die migration s
  | .dieReset die => Sys2Proof.Machine.execDieReset die s
  | .packageReset => Sys2Proof.Machine.execPackageReset s
  | .rstctlDgo port die => Sys2Proof.Machine.execRstctlDgo port die s
  | .rstctlPgo port => Sys2Proof.Machine.execRstctlPgo port s
  | .bringup => Sys2Proof.Machine.execBringup s
  | .attreq port addr => Sys2Proof.Machine.execAttreq port addr s
  | .attestationReport addr => Sys2Proof.Machine.execAttestationReport addr s
  | .linkDown die link => Sys2Proof.Machine.execLinkDown die link s
  | .opticalEpoch => Sys2Proof.Machine.execOpticalEpoch s
  | .opticalSlotOpen entry => Sys2Proof.Machine.execOpticalSlotOpen entry s
  | .opticalSlotClose entry => Sys2Proof.Machine.execOpticalSlotClose entry s
  | .routerEntryWrite die entry val => Sys2Proof.Machine.execRouterEntryWrite die entry val s
  | .slotTableWrite entry val => Sys2Proof.Machine.execSlotTableWrite entry val s
  | .tempSample => Sys2Proof.Machine.execTempSample s
  | .levelChangeApply die stack => Sys2Proof.Machine.execLevelChangeApply die stack s
  | .positionWithhold die stack => Sys2Proof.Machine.execPositionWithhold die stack s
  | .positionReturn die stack => Sys2Proof.Machine.execPositionReturn die stack s
  | .hbmCrcRetry acc lane => Sys2Proof.Machine.execHbmCrcRetry acc lane s
  | .liveRepairComplete die stack pc lane => Sys2Proof.Machine.execLiveRepairComplete die stack pc lane s
  | .pcselWrite die stack val => Sys2Proof.Machine.execPcselWrite die stack val s
  | .patctlGo die stack val => Sys2Proof.Machine.execPatctlGo die stack val s
  | .patternRunDone die stack => Sys2Proof.Machine.execPatternRunDone die stack s
  | .eyectlGo die stack val => Sys2Proof.Machine.execEyectlGo die stack val s
  | .eyeCaptureDone die stack => Sys2Proof.Machine.execEyeCaptureDone die stack s
  | .repairWrite die stack val => Sys2Proof.Machine.execRepairWrite die stack val s
  | .powerWindowEnd die => Sys2Proof.Machine.execPowerWindowEnd die s
  | .governorHoldEnd die => Sys2Proof.Machine.execGovernorHoldEnd die s
  | .registerWrite die off val => Sys2Proof.Machine.execRegisterWrite die off val s
  | .wheelMarker position => Sys2Proof.Machine.execWheelMarker position s
  | .opticalReceive kind => Sys2Proof.Machine.execOpticalReceive kind s
  | .junctionCattrip die => Sys2Proof.Machine.execJunctionCattrip die s
  | .debuggerHalt die on => Sys2Proof.Machine.execDebuggerHalt die on s
  | .powerGating die on => Sys2Proof.Machine.execPowerGating die on s

end Sys2Proof.Machine
end

