-- ==== Sys2Proof/Machine/Cycle.lean ====
section
/-!
DEFINITION. The machine's clock (log entry 1): due events, then the dies' cycles in order, then the end of the package cycle; and
the issue of a bundle (R24-R27, R47, R125, R336, R342).
-/

namespace Sys2Proof.Machine

/-! ### The issue of a bundle -/

/-- An operation names only registers that a shadow context has (R342). -/
def shadowHas (i : Instr) : Bool :=
  match i with
  | .ldw _ tl c _ | .ldrow _ tl c _ | .stw _ tl c _ | .strow _ tl c _ | .aread tl c | .awrite tl c | .adiag tl c _ | .xload _ tl c
  | .xsave _ tl c | .waita tl c _ _ => tl < 16 && c < 4
  | .arw tr cr tw cw => tr < 16 && cr < 4 && tw < 16 && cw < 4
  | .tlw tl _ | .tlr tl _ => tl < 16
  | .cset c _ _ | .cget c _ _ | .cinc c _ _ => c < 4
  | .cstep c b => c < 4 && b < 4
  | .ldrem a | .strem a | .atom a | .red a | .scld a | .scst a | .scrmw a | .send a | .recv a | .osend a | .plread a | .plwrite a
  | .mmld a | .mmst a | .monclr a => a.tl < 16 && a.c < 4
  | .xsolve _ _ _ => false
  | _ => true

/-- What keeps a shadow context from running a bundle (R342): a route of its header, or the first slot that is not S0, S1, A or Y or names a
register beyond the shadow's own. With it, whether the header is at fault (R273). -/
def shadowMisfit (b : Bundle) : Option (Slot × Bool) :=
  if b.xr != 0 || b.xw != 0 then some (.s0, true)
  else (b.ops.find? fun p => !((p.1 == .s0 || p.1 == .s1 || p.1 == .a || p.1 == .y) && shadowHas p.2)).map fun p => (p.1, false)

/-- A wheel operation (R107). DEDUCED, log entry 101. -/
def isWheel (i : Instr) : Bool :=
  match i with
  | .scld _ | .scst _ | .scrmw _ => true
  | _ => false

/-- Program cycles from issue to an operation's retirement: its latest result, one that s0 discards included, at least 1; row naming
for a write retires with the last row written, VST at 6, XSOLVE at 1,200 (R47, R82, R145, R164, R174, R179). -/
def slotLat (b : Bundle) (u v : State) (i : Instr) : Nat :=
  let own := match i with
    | .vst _ => 6
    | .xsolve _ _ _ => 1200
    | .awrite _ _ | .arw _ _ _ _ | .adiag _ _ true => 6 + (driveDelays b).foldl Nat.max 0
    | .mul _ _ _ | .mulhs _ _ _ | .mulhu _ _ _ => 3
    | .divs _ _ _ | .divu _ _ _ | .rems _ _ _ | .remu _ _ _ => 18
    | .vmovs _ => 3
    | .rotm _ _ _ _ => 2
    | .ldw _ _ _ _ | .ldrow _ _ _ _ => 8
    | _ => 1
  ((newFlights u v).map (·.due) ++ (v.me.entries.drop u.me.entries.length).map (·.due)).foldl (fun m t => max m (t - u.cx.prog)) own

/-- Arrivals of the slots with a retirement of their own (R47); the M, K and C slots make theirs.
DEDUCED, log entry 20. DEDUCED, log entry 96. -/
def arrivals (b : Bundle) (lat : List (Slot × Nat)) : M :=
  M.each [Slot.s0, Slot.s1, Slot.a, Slot.v, Slot.y] fun sl =>
    let l := (lat.filter fun p => p.1 == sl).map (·.2)
    M.iff (bitOf b.arv sl.num && !l.isEmpty) (later (l.foldl Nat.max 1) (.barr b.arb 1))

/-- What completes an issued bundle: the self-test of an SSEND beside an array command (R214), arrivals, the resumable position,
and the end of a shadow run, whose bundle's own descriptor governs what issues next (R24, R26, R47, R297). -/
def finishBundle (d : Nat) (b : Bundle) (lat : List (Slot × Nat)) : M :=
  M.all [M.look fun s => M.iff s.chip.cur.test testNow, arrivals b lat, afterIssue b, M.look fun s => M.iff s.chip.cur.tret
    (M.seq (returnFrom d) (M.iff b.pbv (modDie d fun x => { x with main := { x.main with block := x.shadow.block } })))]

/-- A check at issue that has failed in `u`, compared with the state the bundle found: a USER-TRAP and a TRAP 0 are none. -/
def issueTrap (d : Nat) (s u : State) : Option Trap :=
  if (u.chip.die d).trap = (s.chip.die d).trap then none
  else (u.chip.die d).trap.filter fun t => t.cls != 'U' && t.cls != 'T'

/-- The machine goes on from a piece. -/
def done (m : M) (s : State) : Host.Outcome State Fault Refusal := .next ((m s).on s)

/-- A bundle's operations in slot order, all of which read the state `s0` that the bundle found (R24, R27): one that fails a check
undoes the bundle, which traps (R125). -/
def runOps (d : Nat) (b : Bundle) (s0 : State) :
    List (Slot × Instr) → State → List (Slot × Nat) → Host.Outcome State Fault Refusal
  | [], s, lat => done (finishBundle d b lat) s
  | (sl, i) :: l, s, lat =>
    let s1 := (modCur (fun u => { u with slot := sl }) s).on s
    match exec i s1 with
    | .next u =>
      match issueTrap d s0 u with
      | some t => done (takeTrap d t) s0
      | none =>
        if scoreOk s0 s1 u i then runOps d b s0 l u (lat ++ [(sl, slotLat b s1 u i)])
        else done (takeTrap d (mkTrap s0 .stallShort sl false 0 0)) s0
    | .fault f => .fault f
    | .refused r => .refused r

/-- The state a bundle's operations start from: the issue context names the die, the bundle and the value that enters a cascade. -/
def startBundle (d : Nat) (b : Bundle) (s : State) : State :=
  let cas := match b.ops.findSome? fun p => p.2.vargs with
    | some a => (s.chip.die d).ctx.rv a.v1
    | none => 0
  (M.mod (fun c => { c with cur := { die := d, bundle := some b, cas } }) s).on s

/-- The check that the M content of a bundle's CCOPYF fails at the C slot's place, before the Y slot is decoded (R125, R135). -/
def followTrap (s : State) (cx : DecodeCtx) (row : Row) : Option Code :=
  match decodeBundle cx (BitVec.ofNat 512 (row.toNat - 2 ^ 464 * fld row.toNat 464 40)) with
  | .error _ => none
  | .ok b => b.ops.findSome? fun p => match p.2 with | .ccopyf a => s.followBad a | _ => none

/-- Issue the bundle at the program counter of the stream that issues on die `d` (R24, R26, R125, R153). DEDUCED, log entry 99. -/
def issueBundle (d : Nat) (s : State) : Host.Outcome State Fault Refusal :=
  let x := s.chip.die d
  let s1 := (M.mod (fun c => { c with cur := { die := d } }) s).on s
  if s.chip.codeSize d ≤ x.ctx.pc then done (takeTrap d (mkTrap s1 .codeRange .s0 false 0 0)) s1
  else
    let row := s.bundleAt d x.ctx.pc
    let runs := match x.ctx.block with | some k => k.executes | none => true
    if !runs then done (modDie d fun y => y.modCtx fun z => z.squash (fld row.toNat 0 4)) s1
    else match followTrap s1 ⟨decide (8 ≤ d), x.sysMode d⟩ row, decodeBundle ⟨decide (8 ≤ d), x.sysMode d⟩ row with
      | some c, _ => done (takeTrap d (mkTrap s1 c .c false 0 0)) s1
      | none, .error t => done (takeTrap d (mkTrap s1 t.code t.slot t.hdr 0 0)) s1
      | none, .ok b =>
        if let some p := (if x.inShadow then shadowMisfit b else none) then done (takeTrap d (mkTrap s1 .illegalOp p.1 p.2 0 0)) s1
        else if !headOk s1 b then done (takeTrap d (mkTrap s1 .stallShort .s0 true 0 0)) s1
        else if (b.ops.any fun p => isWheel p.2) && !wheelOpen x d s.chip.now then
          done (M.seq (modDie d fun y => y.modCtx fun z => { z with waits := z.waits ++ [.wheel] })
            (sched (wheelNext x d s.chip.now) (.wheelPositionIssue d))) s1
        else
          let s2 := startBundle d b s
          runOps d b s2 b.ops s2 []

/-! ### A die's cycle -/

/-- Row writes in the order of their issue. -/
def byIss (w : WPend) : List WPend → List WPend
  | [] => [w]
  | v :: l => if v.iss ≤ w.iss then v :: byIss w l else w :: v :: l

/-- The row writes of a stream that are due at the end of its program cycle perform (R27, R78, R82, R96). -/
def landWalls (d : Nat) (sh : Bool) : M :=
  M.look fun s =>
    let x := s.chip.die d
    let y := if sh then x.shadow else x.main
    let due := (y.wpend.filter fun w => w.due ≤ y.prog).foldl (fun l w => byIss w l) []
    if due.isEmpty then M.skip
    else M.seq (modStream d sh fun z => { z with wpend := z.wpend.filter fun w => z.prog < w.due })
      (M.each due fun w => M.seq
        (writeRow d (if 8 ≤ d then memAddr kScratch d (64 * (256 * w.bank + w.row)) else wallAddr d w.bank w.row) w.be w.data)
        (M.mod fun c => { c with served := (d, w.bank, true) :: c.served }))

/-- The ports the program cycle has used are taken for the service path (R77); later reservations stand. -/
def passPorts (d : Nat) (sh : Bool) : M :=
  M.look fun s =>
    let x := s.chip.die d
    let y := if sh then x.shadow else x.main
    if y.resv.isEmpty then M.skip
    else M.seq (M.mod fun c => { c with
        served := ((y.resv.filter fun r => r.cyc == y.prog).map fun r => (d, r.bank, r.write)) ++ c.served })
      (modStream d sh fun z => { z with resv := z.resv.filter fun r => z.prog < r.cyc })

/-- The end of a program cycle of a stream. -/
def endCycle (d : Nat) (sh : Bool) : M :=
  M.all [M.look fun s => M.iff ((s.chip.die d).run != .draining) (maceStep d sh), M.iff (!sh) (maceCycle d), engines d, landWalls d sh, passPorts d sh, modStream d sh fun y => { y with prog := y.prog + 1 },
    if sh then M.seq (holdTick d) (budget d) else modDie d fun x => { x with heldFor := 0 }]

/-- The cycle turned out to be one of a hold: a check at issue failed (R272), or a wheel operation waits (R109). -/
def stalled (d : Nat) (sh : Bool) (s : State) : Bool :=
  let x := s.chip.die d
  x.ctx.waits.contains .wheel || (!sh && (match x.trap with | some t => t.cls == 'I' | none => false))

/-- What is left of an ended shadow run goes on landing. DEDUCED, log entry 103. -/
def shadowTail (d : Nat) : M :=
  M.look fun s =>
    let x := s.chip.die d
    let y := x.shadow
    if x.inShadow || (y.pend.isEmpty && y.wpend.isEmpty && y.ptimed.isEmpty && !(x.entries.any (·.sh))) || x.late true then M.skip
    else M.all [M.each (y.ptimed.filter fun p => p.1 ≤ y.prog) fun p => schedIn 0 p.2,
      modDie d fun z => { z with shadow := { z.shadow with ptimed := z.shadow.ptimed.filter fun p => z.shadow.prog < p.1 } },
      landCycle d true, landWalls d true, passPorts d true, modStream d true fun z => { z with prog := z.prog + 1 }]

/-- The next die's turn. -/
def pass (d : Nat) : M :=
  M.seq (M.look fun s => M.iff s.chip.cattrip.isNone (shadowTail d)) (M.mod fun c => { c with turn := c.turn + 1 })

/-- A piece ends the die's turn. -/
def endTurn (d : Nat) (m : M) (s : State) : Host.Outcome State Fault Refusal := done (M.seq m (pass d)) s
/-- A meaning ends the die's turn. -/
def turnAfter (d : Nat) (o : Host.Outcome State Fault Refusal) (m : State → M) : Host.Outcome State Fault Refusal :=
  match o with
  | .next u => endTurn d (m u) u
  | .fault f => .fault f
  | .refused r => .refused r

/-- What lands at the start of the cycle, the sort operations that retire in it included (R27, R225). -/
def startCycle (d : Nat) (sh : Bool) : M := M.seq (landCycle d sh) (M.iff (!sh) (maceRetire d))

/-- A bundle of the stream issues in this cycle (R24, R50, R161). -/
def issues (x : Die) (sh : Bool) : Bool :=
  let y := if sh then x.shadow else x.main
  (sh || x.run == .running) && y.nextIssue ≤ y.prog

/-- One program cycle of a stream: landings, issue, engines, and the row writes at its end. -/
def runCycle (d : Nat) (sh : Bool) (s : State) : Host.Outcome State Fault Refusal :=
  let s1 := (startCycle d sh s).on s
  turnAfter d (if issues (s1.chip.die d) sh then issueBundle d s1 else .next s1) fun u =>
    if stalled d sh u then M.all [holdTick d, engines d, M.iff ((u.chip.die d).run != .draining) (maceStep d true), budget d] else endCycle d sh

/-- An event of the program text that is due in the stream's program cycle. -/
def duePtimed (y : Ctx) : Option (Nat × Instr) := y.ptimed.find? fun p => p.1 ≤ y.prog

/-- The launch that runs on a die is to be pre-empted. -/
def preempting (c : Chip) (d : Nat) : Bool := c.launches.any fun l => some l.id == (c.die d).launch && l.state == .preempting
/-- A pre-emption point of a compute phase has come: the first bundle after it would issue now, and the request reached the die
before this cycle (R49, R275); a house program is not pre-empted (R293). -/
def atPoint (c : Chip) (d : Nat) : Bool :=
  let x := c.die d
  d < 8 && x.run == .running && !x.comm && x.boundary == some x.main.nextIssue && x.main.nextIssue ≤ x.main.prog &&
    c.launches.any fun l => some l.id == x.launch && l.state == .preempting && l.askedAt < c.now

/-- The turn of a die in a package cycle. DEDUCED, log entry 160. -/
def dieTurn (d : Nat) (s : State) : Host.Outcome State Fault Refusal :=
  let s := if (s.chip.die d).entries.isEmpty then s else ((M.seq (readyPops d false) (readyPops d true)) s).on s
  let s := if (s.chip.die d).steps then s else (nodesArrive d s).on s
  let x := s.chip.die d
  let sh := x.inShadow
  let finishP : M := match x.launch with | some l => finishPreempt l | none => M.skip
  let hold : Host.Outcome State Fault Refusal := turnAfter d (exec (.namedCycleHold d) s) fun _ => M.skip
  let timed (e : Nat × Instr) : Host.Outcome State Fault Refusal :=
    exec e.2 ((modStream d sh (fun y => { y with ptimed := y.ptimed.erase e }) s).on s)
  if !x.alight || s.chip.cattrip.isSome then endTurn d M.skip s
  else if sh then
    (if !x.steps then hold else match duePtimed x.shadow with | some e => timed e | none => runCycle d true s)
  else match x.run with
  | .idle | .contained => endTurn d M.skip s
  | .preempted => endTurn d finishP s
  | .barrier =>
    if x.trap.isSome || !x.main.waits.isEmpty then hold
    else if preempting s.chip d then exec (.preemptionPoint d) s
    else endTurn d (M.all [engines d, maceStep d true, checkWaits d]) s
  | _ =>
    if x.main.waits.contains .phaseEnd && phaseDone s d then exec (.commPhaseEnd d) s
    else if !x.steps then hold
    else if x.run != .running && x.quiet then endTurn d (M.all [nodesSettle d, nodesFlag d, if x.run = .draining then saveParty d else finishP]) s
    else match duePtimed x.main with
      | some e => timed e
      | none =>
        if atPoint s.chip d then exec (.preemptionPoint d) s
        else runCycle d false s

/-! ### Events -/

/-- The order of the events of a package cycle: sensors, what a rotation's start changes, and an optical slot's end come first, the control
port of die 8 before that of die 9, reads at a home before writes, nodes that retire after the writes they waited for, and limits last
(R18, R78, R267, R280, R353, R366, R374, R375). -/
def eventClass (i : Instr) : Nat :=
  match i with
  | .tempSample | .powerWindowEnd _ | .junctionCattrip _ | .levelChangeApply _ _ | .positionWithhold _ _ | .positionReturn _ _
  | .opticalSlotClose _ => 0
  | .hostMemoryAccess p _ _ => if p % 2 = 0 then 1 else 2
  | .semRead p => if p ≤ 1 then 1 else 2
  | .start p _ => if p % 2 = 0 then 1 else 2
  | .msgRd _ => 3
  | .msgWr _ | .msgAt _ => 4
  | .nodeRetire _ _ => 5
  | .bwaitTimeout _ | .waitaTimeout _ | .fwaitTimeout _ | .holdTimeout _ => 6
  | _ => 1

/-- A read of a wall row comes after the dies' bundles (R77); a limit passes when its package cycle ends (R261, R265, R305), and so does
the containment of a fault (R353). -/
def deferred (c : Chip) (i : Instr) : Bool :=
  match i with
  | .bwaitTimeout _ | .waitaTimeout _ | .fwaitTimeout _ | .holdTimeout _ => true
  | .msgRd a => (match c.acc a with | some x => isWall x.key | none => false)
  | _ => false

/-- What a package that is shut down still takes (R376). -/
def survivesTrip (i : Instr) : Bool :=
  match i with
  | .packageReset | .rstctlPgo _ | .rstctlDgo _ _ => true
  | .hostMemoryAccess _ _ _ => true
  | _ => false

/-- Of the nodes of a die that retire in one cycle the lowest id comes first (R267), and of the dies whose faults end in one, too
(R353). -/
def nodeOrder (l : List (Nat × Instr)) (e : Nat × Instr) : Nat × Instr :=
  match e.2 with
  | .holdTimeout d => l.foldl (fun f g => match f.2, g.2 with
      | .holdTimeout a, .holdTimeout b => if b < a then g else f
      | _, _ => f) (e.1, .holdTimeout d)
  | .nodeRetire d n => l.foldl (fun f g => match f.2, g.2 with
      | .nodeRetire _ a, .nodeRetire k b => if k == d && b < a then g else f
      | _, _ => f) (e.1, .nodeRetire d n)
  | _ => e

/-- The next due event. DESIGN CHOICE, log entry 3. -/
def nextEvent (c : Chip) : Option (Nat × Instr) :=
  let ready := c.events.filter fun e => e.1 ≤ c.now && (c.cattrip.isNone || survivesTrip e.2) && (12 ≤ c.turn || !deferred c e.2)
  ((List.range 7).findSome? fun k => ready.find? fun e => eventClass e.2 == k).map (nodeOrder ready)

/-- A due event happens. -/
def runEvent (e : Nat × Instr) (s : State) : Host.Outcome State Fault Refusal :=
  exec e.2 ((M.mod (fun c => { c with events := c.events.erase e }) s).on s)

/-! ### The package cycle -/

/-- Every 4,096 package cycles the entries of the side logs are tried again (R346). -/
def retryLogs : M :=
  M.look fun s => M.iff (s.chip.now % 4096 == 0 && s.chip.now != 0) (M.each (List.range 12) fun d => M.each (List.range 3) fun u =>
    M.iff (!((s.chip.die d).log u).isEmpty) (schedIn 0 (.sideLogReplay d u)))

/-- The end of a package cycle. -/
def endPackage : M :=
  M.all [placeRecords, M.each (List.range 12) nodesSettle, cloveTick, admitInbound, retryStatus, retryLoads, M.mod fun c =>
    let dies := c.dies.map fun x => if x.fwnew = 0 then x else { x with fwev := x.pend, fwnew := 0 }
    { c with undo := [], served := [], dies, now := c.now + 1, turn := 0 }, retryLogs]

/-- One step: a due event; or, when there is none, a die's turn; or the end of the package cycle (log entry 1). -/
def tick (s : State) : Host.Outcome State Fault Refusal :=
  if s.chip.turn = 0 || 12 ≤ s.chip.turn then
    match nextEvent s.chip with
    | some e => runEvent e s
    | none => if s.chip.turn = 0 then dieTurn 0 s else done endPackage s
  else dieTurn s.chip.turn s

end Sys2Proof.Machine
end

