-- ==== Sys2Proof/Machine/Step.lean ====
section
/-!
DEFINITION. One step of the machine, and a state whose next step runs a given instruction.
-/

namespace Sys2Proof.Machine

/-- One step (log entry 1). -/
def step (s : State) : Host.Outcome State Fault Refusal := tick s

/-- Die 0 as the party of a running program whose next cycle issues: its stream waits for nothing, no event of the program text
and no block is due, and the other state of the die stands. -/
def Die.fetches (x : Die) : Die :=
  { x with
    present := true, halted := false, gated := false, inShadow := false, run := .running, trap := none, entries := [], rgnId := 0,
    sbchk := 0, sys := true, terms := { x.terms with codelo := 0, coden := 1 },
    main := { x.main with pc := 0, nextIssue := x.main.prog, waits := [], ptimed := [], block := none, pend := [], loops := [] },
    mace := { x.mace with jobs := [] } }

/-- `s` with an instruction where the next step fetches: the word in its slot of bundle 0 of die 0, whose code range is that bundle,
and no event ahead of it (log entry 11). -/
def State.withFetchWord (s : State) (nbits w : Nat) : State :=
  { mem := s.mem.put ⟨memAddr kCode 0 0, allBytes, tableBundle nbits w⟩,
    chip := { s.chip.modDie 0 Die.fetches with
      turn := 0, events := [], cattrip := none } }

end Sys2Proof.Machine
end

