-- ==== Sys2Proof/Safety.lean ====
section
/-!
DEFINITION. What claims call a completed instruction, a safe run, and the invariant of the package's state.
-/

namespace Sys2Proof.Machine

/-- The state a piece of a meaning leads to. -/
def State.after (s : State) (m : M) : State := (m s).on s

/-- The outcome of a step of this machine. -/
abbrev Out := Host.Outcome State Fault Refusal

/-- The state with die `d` changed and nothing else. -/
def State.withDie (s : State) (d : Nat) (f : Die → Die) : State := { s with chip := s.chip.modDie d f }
/-- The state with the issuing die changed. -/
def State.withMe (s : State) (f : Die → Die) : State := s.withDie s.cd f
/-- The state with the stream that issues changed. -/
def State.withCtx (s : State) (f : Ctx → Ctx) : State := s.withMe fun x => x.modCtx f
/-- The state with the issue context changed. -/
def State.withCur (s : State) (f : Cur → Cur) : State := { s with chip := { s.chip with cur := f s.chip.cur } }
/-- The state with die `d`'s copy of everything else kept and the package's other data changed. -/
def State.withChip (s : State) (f : Chip → Chip) : State := { s with chip := f s.chip }

/-- One of the two streams of a die: its own, or its shadow context's. -/
def State.stream (s : State) (d : Nat) (sh : Bool) : Ctx := if sh then (s.chip.die d).shadow else (s.chip.die d).main
/-- The stream that issues holds before its next bundle (R42). -/
def State.holding (s : State) (w : Wait) : State := s.withCtx fun y => { y with waits := y.waits ++ [w] }
/-- An event of package cycle `t` joins those to come. -/
def State.awaiting (s : State) (t : Nat) (i : Instr) : State := { s with chip := { s.chip with events := s.chip.events ++ [(t, i)] } }

/-- A result of the bundle being issued that lands `lat` program cycles later (R27). -/
def State.flight (s : State) (lat : Nat) (l : Land) : Pend := ⟨s.cx.prog + lat, s.cx.prog, l⟩
/-- Results join those in flight of the stream that issues; nothing else changes. -/
def State.flying (s : State) (l : List Pend) : State := s.withCtx fun y => { y with pend := y.pend ++ l }
/-- The result of a write to a scalar name: none for s0 (R144). -/
def State.sRes (s : State) (lat n : Nat) (v : Word) : List Pend :=
  if n = 0 then [] else [s.flight lat (.s (physS s.cx.rotb n) v)]
/-- The result of a write to a predicate name: none for p0 (R144). -/
def State.pRes (s : State) (lat n : Nat) (b : Bool) : List Pend :=
  if n = 0 then [] else [s.flight lat (.p (physP s.cx.rotb n) b)]
/-- The result of a write to a vector register name. -/
def State.vRes (s : State) (lat n : Nat) (v : Vec) : List Pend := [s.flight lat (.v (physV s.cx.rotb n) v)]
/-- The flags of an operation that retires `lat` program cycles after issue (R67): none when it sets none. -/
def State.fRes (s : State) (lat : Nat) (f : Flags) : List Pend := if f = 0 then [] else [s.flight (lat + 1) (.flags f)]
/-- The arrival of the running slot at its bundle's barrier, if its ARV bit is set (R47). -/
def State.aRes (s : State) (lat : Nat) : List Pend := match s.arvOf with
  | some b => [s.flight lat (.barr b 1)]
  | none => []
/-- What a vector unit does with its result (R131, R179): the last unit of a cascade writes V[VD] and the flags of the cascade two
cycles after each unit, six more after a VLD; another passes its result to the next unit. -/
def State.passes (s : State) (a : VArgs) (r : Vec) (f : Flags) : Out :=
  let lat := (if a.loaded then 6 else 0) + 2 * (a.unit + 1)
  let g := s.chip.cur.casFlags ||| f
  .next (if a.last then s.flying (s.vRes lat a.vd r ++ s.fRes lat g)
    else { s with chip := { s.chip with cur := { s.chip.cur with cas := r, casFlags := g } } })
/-- A row write of the own wall that performs `lat` program cycles later joins those in flight (R82, R96). -/
def State.walling (s : State) (lat bank row : Nat) (be : BitVec 64) (data : Row) (path : Nat) : State :=
  s.withCtx fun y => { y with wpend := y.wpend ++ [{ due := y.prog + lat, iss := y.prog, bank, row, be, data, path }] }
/-- A port of a bank is reserved (R163). -/
def State.reserving (s : State) (cyc bank row : Nat) (write route : Bool) : State :=
  s.withCtx fun y => { y with resv := ⟨cyc, bank, row, write, route⟩ :: y.resv }
/-- A request of the issuing stream is named for `off` program cycles on: it has a landing-buffer entry (R40, R41). -/
def State.named (s : State) (off : Nat) (w : LandWhat) : State :=
  (s.withMe fun x => { x with entries := x.entries ++ [{
      id := s.chip.nextId, due := x.ctx.prog + off, iss := x.ctx.prog, what := w, arrived := false, data := 0, sh := x.inShadow,
      fault := none, bundle := x.ctx.pc, site := x.site x.ctx s.chip.cur.slot }] }).withChip
    fun c => { c with nextId := s.chip.nextId + 1 }
/-- The issuing die has taken the exception of a check that fails at issue. -/
def State.trapped (s : State) (code : Code) (detail : Word) : State := s.after (trapWith code detail 0)

/-- The same of a check that names a bank, and the cycles of a conflict (R76, R163, R175). -/
def State.naming (s : State) (code : Code) (detail : Word) (names : List Nat) : State := s.after (trapNaming code detail names)

/-- The outcome is a next state. -/
def Completes (o : Host.Outcome State Fault Refusal) : Prop := ∃ t, o = .next t

/-- A die but for its translation caches, request table, calendar record and reduction windows. -/
def Die.still (x : Die) : Die :=
  { x with tcCopy := [], tcGather := [], tcFabric := [], tcSeq := [], ats := [], atsWait := [], calendar := [], reds := [] }

/-- The state but for what the start of an access may change. -/
def State.still (s : State) : State :=
  { s with chip := { s.chip with
    accs := [], events := [], free := 0, nextId := 0, oaccs := [], oqueue := [], owait := [], dies := s.chip.dies.map Die.still } }

/-- An access but for how far it has come; with `b` false its data is left out too. -/
def Acc.what (b : Bool) (a : Acc) : Acc :=
  { a with
    stage := .start, dirDie := 0, off := 0, home := none, key := 0, va := 0, word := 0, fmt := 0, inc := 0, noticed := false,
    cause := 0, code := .pageFault, rest := 0, ready := none, node := none, after := [], afterNodes := [], afterCyc := 0,
    data := if b then a.data else 0 }
/-- What the table of accesses holds. -/
def State.whats (b : Bool) (s : State) : List Acc := s.chip.accs.map (Acc.what b)

/-- The scalar and predicate operations of the S slots, with what each writes: a predicate or a scalar, and its name (R145-R152). -/
def arithDest : Instr → Option (Bool × Nat)
  | .add d _ _ | .sub d _ _ | .mul d _ _ | .mulhs d _ _ | .mulhu d _ _ | .divs d _ _ | .divu d _ _ | .rems d _ _ | .remu d _ _
  | .and d _ _ | .or d _ _ | .xor d _ _ | .andn d _ _ | .shl d _ _ | .shr d _ _ | .sar d _ _ | .rol d _ _ | .min d _ _
  | .max d _ _ | .minu d _ _ | .maxu d _ _ | .clz d _ | .popc d _ | .sel d _ _ _ | .rotm d _ _ _ | .addi d _ _ | .andi d _ _
  | .ori d _ _ | .xori d _ _ | .shli d _ _ | .shri d _ _ | .sari d _ _ | .movk d _ _ | .ext d _ _ _ | .exts d _ _ _
  | .ins d _ _ _ | .csrr d _ | .cget _ _ d => some (false, d)
  | .cmp d _ _ _ | .cmpi d _ _ _ | .pand d _ _ _ _ | .por d _ _ _ _ | .pxor d _ _ _ _ | .pandn d _ _ _ _ | .pset d _ =>
    some (true, d)
  | _ => none

/-- The first check of a product or ranking command that fails, in the order of the rules (R66, R195, R197, R201-R204): the same for
the M slot and for a follow-on command (R241). -/
def State.refuses (s : State) (op : MOp) (a : MArgs) : Option Code :=
  let m := s.me.matrix
  let w := (s.cx.rs a.ss).toNat
  let n := a.len + 1
  let row0 := if op = .mmac then w / 256 % 256 else w % 256
  let groups := 2 ^ (w / 256 % 8)
  let off (k : Nat) : Int := (lane (s.cx.rv a.vs) k).toInt
  if op ≠ .mrank ∧ (m.tile.tfmt, a.fa) ∉ [(2, 2), (2, 3), (3, 2), (3, 3), (4, 4), (4, 5), (5, 4), (5, 5), (6, 6), (7, 7), (8, 8), (9, 9), (9, 8)] then
    some .tileFormat
  else if ¬ ((m.modes.getLsbD a.acc = true ↔ op = .mrank ∨ m.tile.tfmt = 7 ∨ m.tile.tfmt = 8) ∧
      (op = .mmac → (m.modes.getLsbD a.asrc = true ↔ a.fa = 7 ∨ a.fa = 8) ∧ (m.modes.getLsbD a.asrc = false → a.fa ≤ 6))) then
    some .accMode
  else if ¬ (row0 + n ≤ 256 ∧ (op = .mmac → w % 256 + n ≤ 256) ∧ (op = .mmag → w / 256 % 8 ≤ 4)) then some .matrixRange
  else if op = .mmag ∧ ∃ g ∈ List.range groups, off (g + 1) < off g then some .offsetOrder
  else if op = .mmag ∧ ¬ (0 ≤ off 0 ∧ off groups ≤ n) then some .offsetRange
  else none

/-- What a product or ranking command captures at issue (R66, R198, R201-R204). -/
def State.captured (s : State) (op : MOp) (a : MArgs) : MCap :=
  let w := (s.cx.rs a.ss).toNat
  let n := a.len + 1
  { op, acc := a.acc, asrc := a.asrc, fa := a.fa, r0 := w % 256, n
    row0 := if op = .mmac then w / 256 % 256 else w % 256
    sca := op ≠ .mrank && a.epb % 2 = 1
    e := w / 256 % 256 + 1
    offs := if op = .mmag then (List.range (2 ^ (w / 256 % 8) + 1)).map fun k => (lane (s.cx.rv a.vs) k).toInt else []
    vecs := if op ∈ [.mma, .mmag] ∧ a.epb % 2 = 1 then
      (List.range ((n + 15) / 16)).map fun k => s.cx.rv ((if op = .mmag then a.vs + 1 else a.vs) + k) else []
    fp := s.me.fpctl, tile := s.me.matrix.tile }

/-- `n` steps from `s` meet neither a fault nor a refusal. -/
def SafeFor (n : Nat) (s : State) : Prop := ∃ t, Sys2Proof.core.run n s = .next t

/-- Memory is in its canonical form: addresses strictly rise, and no byte is listed that an unlisted address would read as. -/
def State.Inv (s : State) : Prop := s.mem.wf = true

end Sys2Proof.Machine
end

