-- ==== Sys2Proof/Certificates/Slice0/Obligations.lean ====
section
/-!
DEFINITION. The statements for the provers: what each instruction and event does, where it completes, and what it leaves alone.
-/

open Sys2Proof Sys2Proof.Machine

/-! ### The machine -/

/-- The reset columns of R63, R128 and R278. The model's own choices: the empty memory (log entry 6), the zeros of the configuration
registers TVEC, RTBASE and the region table (log entry 7), and PRIV of a house sequencer (log entry 120). -/
def Obligations.ResetValues : Prop :=
  let c := State.reset.chip
  c.dies.length = 12 ∧ c.now = 0 ∧ State.reset.mem = [] ∧ c.events = [(0, .bringup)] ∧
  (∀ d, d < 8 → readCsr c d 0x000 = 0x800 ∧ readCsr c d 0x100 = 0) ∧
  (∀ d, 8 ≤ d → d < 12 → readCsr c d 0x000 = 0 ∧ readCsr c d 0x100 = 5) ∧
  (∀ d, d < 12 → readCsr c d 0x007 = BitVec.ofNat 64 d ∧
    ∀ n ∈ [0x001, 0x002, 0x003, 0x004, 0x005, 0x006, 0x008, 0x009, 0x101, 0x102, 0x103, 0x108, 0x10A, 0x10C, 0x10D, 0x200],
      readCsr c d n = 0)

/-- The invariant at reset. -/
def Obligations.ResetInv : Prop := State.reset.Inv

/-- Every step keeps the invariant: an event, a die's turn with the issue of a bundle, or the end of a package cycle. -/
def Obligations.StepKeepsInv : Prop := ∀ s t : State, s.Inv → step s = .next t → t.Inv

/-- R126, R127, R129, R132-R136: no bit of an encoding is dropped. -/
def Obligations.RoundTrip : Prop :=
  ∀ i : Instr, i.wf = true →
    match i.slot with
    | some .s0 => decodeS ⟨false, true⟩ false (encode i) = .ok i ∧ (i.control = false → decodeS ⟨false, true⟩ true (encode i) = .ok i)
    | some .a => decodeA ⟨false, true⟩ (encode i) = .ok i
    | some .m => decodeM ⟨false, true⟩ (encode i) = .ok i
    | some .k => decodeK ⟨false, true⟩ (encode i) = .ok i
    | some .c => decodeC ⟨false, true⟩ (encode i) (match i with | .ccopyf a => a.follow | _ => 0) = .ok i
    | some .y => decodeY ⟨false, true⟩ (encode i) = .ok i
    | _ => True

/-- R130, R131. -/
def Obligations.VectorWords : Prop :=
  (∀ (w : Nat) (is : List Instr), w < 2 ^ 112 → decodeV w = .ok is → encodeV is = w) ∧
  (∀ (w : Nat) (is : List Instr), w < 2 ^ 112 → decodeV w = .ok is → cascadeWf is = true) ∧
  (∀ is : List Instr, cascadeWf is = true → encodeV is < 2 ^ 112 ∧ decodeV (encodeV is) = .ok is)

/-- Words printed in the manual's entries. -/
def Obligations.DecodedWords : Prop :=
  let cx : DecodeCtx := ⟨false, true⟩
  decodeS cx false 0x00_0020_4301 = .ok (.add 3 1 2) ∧
  decodeS cx false 0xFF_FFFF_B650 = .ok (.br 6 true (-3)) ∧
  decodeS cx false 0x00_0000_4555 = .ok (.loop 5 2) ∧
  decodeS cx false 0x00_0042_894A = .ok (.csrrp 9 0x10A) ∧
  decodeS cx false 0x00_0001_C45C = .ok (.rcbld 4 7) ∧
  decodeV 0x40_0600_8008_1406_0004 =
    .ok [.vfma ⟨0, false, 20, 1, 2, 3, 0, 0, 0, false, false, false⟩, .vmax ⟨2, false, 20, 1, 4, 3, 0, 0, 0, true, false, false⟩] ∧
  decodeM cx 0x00_000C_003C_0842 = .ok (.mma ⟨1, 0, 2, 0, 15, 0, 12, 0⟩) ∧
  decodeK cx 0x00_2881 = .ok (.kload ⟨0, 1, 10, false, false, 0⟩) ∧
  decodeC cx 0x0A_0000_0000_8190 0 = .ok (.migrate ⟨6, 1, 0, 0, 0, 0, 0, 20, 0, 0⟩) ∧
  decodeY cx 0x00_0000_11A0 = .ok (.atcinv 1 6) ∧
  decodeA cx 0x00_000A_0288 = .ok (.tlw 10 20) ∧
  decodeY cx 0xE4_B0A0_00C3 = .ok (.atom ⟨3, 0, 10, 300, 7⟩)

/-- R24, R27, R125: what a step adds around `exec`. The turn of one die at a time is the model's own (log entry 1). -/
def Obligations.StepRunsBundle : Prop :=
  ∀ (s : State) (d : Nat) (b : Bundle) (sl : Slot) (i : Instr),
    let x := s.chip.die d
    let s1 := s.after (startCycle d false)
    let y := s1.chip.die d
    let s2 := startBundle d b s1
    d < 12 → s.chip.turn = d → (d = 0 → nextEvent s.chip = none) → s.chip.cattrip = none →
    x.steps = true → x.inShadow = false → x.run = .running → x.entries = [] → duePtimed x.main = none →
    preempting s.chip d = false →
    y.inShadow = false → y.run = .running → y.main.nextIssue ≤ y.main.prog → y.main.block = none →
    y.main.pc < s1.chip.codeSize d → y.sbchk = 0 → isWheel i = false →
    decodeBundle ⟨decide (8 ≤ d), y.sysMode d⟩ (s1.bundleAt d y.main.pc) = .ok b → b.ops = [(sl, i)] →
    followTrap (s1.withChip fun c => { c with cur := { die := d } }) ⟨decide (8 ≤ d), y.sysMode d⟩ (s1.bundleAt d y.main.pc) = none →
    let s3 := s2.withCur fun u => { u with slot := sl }
    step s = turnAfter d
      (match exec i s3 with
        | .next u => (match issueTrap d s2 u with
          | none => .next (u.after (finishBundle d b [(sl, slotLat b s3 u i)]))
          | some t => .next (s2.after (takeTrap d t)))
        | .fault f => .fault f
        | .refused r => .refused r)
      fun u => if stalled d false u then M.all [holdTick d, engines d, M.iff ((u.chip.die d).run != .draining) (maceStep d true), budget d] else endCycle d false

/-! ### Scalar operations -/

/-- R144, R145: what each register operation writes, and when. -/
def Obligations.AluResults : Prop :=
  ∀ (s : State) (d a b : Nat),
    let x := s.cx.rs a
    let y := s.cx.rs b
    let res (lat : Nat) (v : Word) : Out := .next (s.flying (s.sRes lat d v))
    exec (.add d a b) s = res 1 (BitVec.ofNat 64 (x.toNat + y.toNat)) ∧
    exec (.sub d a b) s = res 1 (BitVec.ofInt 64 (x.toInt - y.toInt)) ∧
    exec (.mul d a b) s = res 3 (BitVec.ofNat 64 (x.toNat * y.toNat)) ∧
    exec (.mulhs d a b) s = res 3 (BitVec.ofInt 64 (x.toInt * y.toInt / 2 ^ 64)) ∧
    exec (.mulhu d a b) s = res 3 (BitVec.ofNat 64 (x.toNat * y.toNat / 2 ^ 64)) ∧
    exec (.divs d a b) s = res 18 (if y = 0 then BitVec.allOnes 64 else BitVec.ofInt 64 (x.toInt.tdiv y.toInt)) ∧
    exec (.divu d a b) s = res 18 (if y = 0 then BitVec.allOnes 64 else BitVec.ofNat 64 (x.toNat / y.toNat)) ∧
    exec (.rems d a b) s = res 18 (if y = 0 then x else BitVec.ofInt 64 (x.toInt - y.toInt * x.toInt.tdiv y.toInt)) ∧
    exec (.remu d a b) s = res 18 (if y = 0 then x else BitVec.ofNat 64 (x.toNat - y.toNat * (x.toNat / y.toNat))) ∧
    exec (.and d a b) s = res 1 (x &&& y) ∧ exec (.or d a b) s = res 1 (x ||| y) ∧
    exec (.xor d a b) s = res 1 (x ^^^ y) ∧ exec (.andn d a b) s = res 1 (x &&& ~~~y) ∧
    exec (.shl d a b) s = res 1 (BitVec.ofNat 64 (x.toNat * 2 ^ (y.toNat % 64))) ∧
    exec (.shr d a b) s = res 1 (BitVec.ofNat 64 (x.toNat / 2 ^ (y.toNat % 64))) ∧
    exec (.sar d a b) s = res 1 (BitVec.ofInt 64 (x.toInt / 2 ^ (y.toNat % 64))) ∧
    exec (.rol d a b) s = res 1 (x.rotateLeft (y.toNat % 64)) ∧
    exec (.min d a b) s = res 1 (BitVec.ofInt 64 (min x.toInt y.toInt)) ∧
    exec (.max d a b) s = res 1 (BitVec.ofInt 64 (max x.toInt y.toInt)) ∧
    exec (.minu d a b) s = res 1 (BitVec.ofNat 64 (min x.toNat y.toNat)) ∧
    exec (.maxu d a b) s = res 1 (BitVec.ofNat 64 (max x.toNat y.toNat)) ∧
    (∃ n, n ≤ 64 ∧ x.toNat < 2 ^ (64 - n) ∧ (n < 64 → 2 ^ (63 - n) ≤ x.toNat) ∧
      exec (.clz d a) s = res 1 (BitVec.ofNat 64 n)) ∧
    exec (.popc d a) s = res 1 (BitVec.ofNat 64 ((List.range 64).countP fun i => x.getLsbD i))

/-- R146. -/
def Obligations.ImmediateResults : Prop :=
  ∀ (s : State) (d a : Nat) (imm : BitVec 20),
    let x := s.cx.rs a
    let res (v : Word) : Out := .next (s.flying (s.sRes 1 d v))
    exec (.addi d a imm) s = res (BitVec.ofInt 64 (x.toInt + imm.toInt)) ∧
    exec (.andi d a imm) s = res (x &&& BitVec.ofInt 64 imm.toInt) ∧
    exec (.ori d a imm) s = res (x ||| BitVec.ofInt 64 imm.toInt) ∧
    exec (.xori d a imm) s = res (x ^^^ BitVec.ofInt 64 imm.toInt) ∧
    (imm.toNat < 64 →
      exec (.shli d a imm) s = res (BitVec.ofNat 64 (x.toNat * 2 ^ imm.toNat)) ∧
      exec (.shri d a imm) s = res (BitVec.ofNat 64 (x.toNat / 2 ^ imm.toNat)) ∧
      exec (.sari d a imm) s = res (BitVec.ofInt 64 (x.toInt / 2 ^ imm.toNat))) ∧
    (64 ≤ imm.toNat → (Instr.shli d a imm).wf = false ∧ (Instr.shri d a imm).wf = false ∧ (Instr.sari d a imm).wf = false)

/-- R147-R150, bit by bit. -/
def Obligations.FieldResults : Prop :=
  ∀ (s : State) (d a b c p hw pos len : Nat) (imm : BitVec 16),
    let res (lat : Nat) (v : Word) : Out := .next (s.flying (s.sRes lat d v))
    (hw < 4 → ∃ v, exec (.movk d hw imm) s = res 1 v ∧ ∀ i, i < 64 → v.getLsbD i =
      if 16 * hw ≤ i ∧ i < 16 * hw + 16 then imm.getLsbD (i - 16 * hw) else (s.cx.rs d).getLsbD i) ∧
    exec (.sel d p a b) s = res 1 (if s.cx.rp p then s.cx.rs a else s.cx.rs b) ∧
    (∃ v, exec (.rotm d a b c) s = res 2 v ∧ ∀ i, i < 64 → v.getLsbD i =
      let j := i + 8 * ((s.cx.rs c).toNat % 8)
      if j < 64 then (s.cx.rs a).getLsbD j else (s.cx.rs b).getLsbD (j - 64)) ∧
    (1 ≤ len → pos + len ≤ 64 →
      (∃ v, exec (.ext d a pos len) s = res 1 v ∧ ∀ i, i < 64 → v.getLsbD i =
        (decide (i < len) && (s.cx.rs a).getLsbD (pos + i))) ∧
      (∃ v, exec (.exts d a pos len) s = res 1 v ∧ ∀ i, i < 64 → v.getLsbD i =
        (s.cx.rs a).getLsbD (pos + min i (len - 1))) ∧
      (∃ v, exec (.ins d a pos len) s = res 1 v ∧ ∀ i, i < 64 → v.getLsbD i =
        if pos ≤ i ∧ i < pos + len then (s.cx.rs a).getLsbD (i - pos) else (s.cx.rs d).getLsbD i))

/-- R151, R152, R162: conditions by their code in R126. -/
def Obligations.CompareResults : Prop :=
  ∀ (s : State) (d a b : Nat) (imm : BitVec 18) (na nb v : Bool),
    let res (v : Bool) : Out := .next (s.flying (s.pRes 1 d v))
    let cond (k : Nat) (x y : Word) : Bool := match k with
      | 0 => decide (x.toNat = y.toNat) | 1 => decide (x.toNat ≠ y.toNat)
      | 2 => decide (x.toInt < y.toInt) | 3 => decide (y.toInt ≤ x.toInt)
      | 4 => decide (x.toNat < y.toNat) | 5 => decide (y.toNat ≤ x.toNat)
      | 6 => decide (y.toInt < x.toInt) | 7 => decide (x.toInt ≤ y.toInt)
      | 8 => decide (y.toNat < x.toNat) | _ => decide (x.toNat ≤ y.toNat)
    (∀ k, k < 10 → exec (.cmp d k a b) s = res (cond k (s.cx.rs a) (s.cx.rs b)) ∧
      exec (.cmpi d k a imm) s = res (cond k (s.cx.rs a) (BitVec.ofInt 64 imm.toInt))) ∧
    exec (.pand d a b na nb) s = res ((s.cx.rp a != na) && (s.cx.rp b != nb)) ∧
    exec (.por d a b na nb) s = res ((s.cx.rp a != na) || (s.cx.rp b != nb)) ∧
    exec (.pxor d a b na nb) s = res ((s.cx.rp a != na) != (s.cx.rp b != nb)) ∧
    exec (.pandn d a b na nb) s = res ((s.cx.rp a != na) && (s.cx.rp b == nb)) ∧
    exec (.pset d v) s = res v ∧ exec .nop s = .next s

/-- The frame of the S slots' operations on registers. -/
def Obligations.ScalarFrame : Prop :=
  ∀ (i : Instr) (s t : State) (q : Bool) (n : Nat), arithDest i = some (q, n) → exec i s = .next t →
    (∀ a, t.mem.read a = s.mem.read a) ∧
    ∃ l, t = s.flying l ∧ l.length ≤ 1 ∧ (n = 0 → l = []) ∧
      ∀ p ∈ l, p.iss = s.cx.prog ∧ s.cx.prog < p.due ∧
        (if q then ∃ b, p.land = .p (physP s.cx.rotb n) b else ∃ v, p.land = .s (physS s.cx.rotb n) v)

/-- R27, R33, R144: one landing, register file by register file. -/
def Obligations.ResultsLand : Prop :=
  (∀ (r : BitVec 10) (k : Nat),
    (k < 48 → physS r k = k) ∧ (k < 16 → physS r (48 + k) = 48 + (k + r.toNat) % 16) ∧
    (k < 8 → physP r k = k ∧ physP r (8 + k) = 8 + (k + r.toNat) % 8) ∧
    (k < 1024 → physV r k = k ∧ physV r (1024 + k) = 1024 + (k + r.toNat) % 1024)) ∧
  ∀ (s : State) (d : Nat) (sh : Bool) (due iss n : Nat), d < s.chip.dies.length →
    let y := s.stream d sh
    let t (l : Land) := s.after (landOne d sh ⟨due, iss, l⟩)
    let z (l : Land) : Ctx := (t l).stream d sh
    let rest (l : Land) : Prop := (t l).mem = s.mem ∧ (t l).chip = { s.chip with dies := (t l).chip.dies } ∧
      (∀ e, e ≠ d → (t l).chip.die e = s.chip.die e) ∧ (t l).stream d (!sh) = s.stream d (!sh) ∧
      { (t l).chip.die d with main := (s.chip.die d).main, shadow := (s.chip.die d).shadow } = s.chip.die d
    (∀ x, rest (.s n x) ∧ z (.s n x) = { y with s := SMap.set 0 y.s n x } ∧
      ∀ m, m ≠ 0 → (z (.s n x)).rs m = if physS y.rotb m = n then x else y.rs m) ∧
    (∀ b, 0 < n → rest (.p n b) ∧ z (.p n b) = { y with p := (z (.p n b)).p } ∧ ∀ m, 0 < m → m < 16 →
      (z (.p n b)).rp m = if physP y.rotb m = n then b else y.rp m) ∧
    (∀ x, rest (.c n x) ∧ z (.c n x) = { y with c := (z (.c n x)).c } ∧ ∀ m, (z (.c n x)).rc m = if m = n then x else y.rc m) ∧
    (∀ x, rest (.tl n x) ∧ z (.tl n x) = { y with tl := (z (.tl n x)).tl } ∧
      ∀ m, (z (.tl n x)).rtl m = if m = n then x else y.rtl m) ∧
    (∀ x, rest (.v n x) ∧ z (.v n x) = { y with v := (z (.v n x)).v } ∧
      ∀ m, (z (.v n x)).rv m = if physV y.rotb m = n then x else y.rv m)

/-- R27: results that reach one register in one cycle apply in issue order. -/
def Obligations.LandingOrder : Prop :=
  ∀ (s : State) (d : Nat) (sh : Bool) (n : Nat), d < s.chip.dies.length → n ≠ 0 →
    let y := s.stream d sh
    let t := (s.after (landCycle d sh)).stream d sh
    let es := (s.chip.die d).dueEntries sh
    (∀ p ∈ y.pend, y.prog ≤ p.due ∧ ∃ k x, p.land = .s k x) → (∀ e ∈ es, ∃ r, e.what = .word r) →
    es.Pairwise (fun e f => e.iss ≤ f.iss) →
    t.pend = y.pend.filter (fun p => y.prog < p.due) ∧
    ((∀ p ∈ y.pend, p.due = y.prog → ∀ x, p.land ≠ .s n x) → (∀ e ∈ es, e.what ≠ .word n) → SMap.get 0 t.s n = SMap.get 0 y.s n) ∧
    (∀ p ∈ y.pend, ∀ x, p.due = y.prog → p.land = .s n x →
      (∀ q ∈ y.pend, q ≠ p → q.due = y.prog → (∃ z, q.land = .s n z) → q.iss < p.iss) →
      (∀ e ∈ es, e.what = .word n → e.iss < p.iss) → SMap.get 0 t.s n = x) ∧
    (∀ e ∈ es, e.what = .word n →
      (∀ q ∈ y.pend, q.due = y.prog → (∃ z, q.land = .s n z) → q.iss ≤ e.iss) →
      (∀ f ∈ es, f ≠ e → f.what = .word n → f.iss < e.iss) → SMap.get 0 t.s n = rowWord e.data 0)

/-! ### The bank wall and the CSRs -/

/-- R89. -/
def Obligations.WallPlace : Prop :=
  ∀ (r : Rec) (x : Nat → Int),
    ((∃ k, k < Rec.rank r ∧ (x k < 0 ∨ (Rec.ext r k : Int) ≤ x k)) → offsetOf r x = none) ∧
    ((∀ k, k < Rec.rank r → 0 ≤ x k ∧ x k < (Rec.ext r k : Int)) →
      offsetOf r x = some (((List.range (Rec.rank r)).map fun k => x k * Rec.str r k).sum)) ∧
    (∀ o : Int,
      let w := fmtWidth (Rec.fmt r)
      let n := o / (512 / w : Nat)
      let nb : Int := (2 ^ Rec.lbc r : Nat)
      let p := wallPos r o
      p.row = (Rec.row0 r : Int) + n / nb ∧ (p.elem : Int) = o % (512 / w : Nat) ∧
        (p.bank : Int) = ((Rec.fbank r : Int) + (n % nb + (Rec.skew r : Int) * (n / nb)) % nb) % 1024)

/-- R164, R165, R76. That the bank which a WALL-RANGE names goes with the fault, outside the rows of its record, is log entry 95. -/
def Obligations.WallOperand : Prop :=
  ∀ (s : State) (tl c : Nat),
    let r := s.cx.rtl tl
    let o := offsetOf r (coordX (s.cx.rc c))
    let ok (p : WallPos) := 0 ≤ p.row ∧ p.row < 1536 ∧ s.me.terms.banklo ≤ p.bank ∧ p.bank < s.me.terms.banklo + s.me.terms.bankn
    (Rec.rank r = 0 → ∃ x, swall s tl c = .bad .layoutReserved x []) ∧
    (Rec.rank r ≠ 0 → (if 8 ≤ s.cd then 2 ≤ Rec.space r else 1 ≤ Rec.space r) → swall s tl c = .bad .wrongSpace 0 []) ∧
    (Rec.rank r ≠ 0 → (if 8 ≤ s.cd then Rec.space r < 2 else Rec.space r = 0) → o = none →
      swall s tl c = if Rec.space r = 1 then .farFill (fillRow (Rec.fmt r) (Rec.fill r))
        else .fill (fillRow (Rec.fmt r) (Rec.fill r))) ∧
    (∀ off, Rec.rank r ≠ 0 → o = some off →
      let p := wallPos r off
      (s.cd < 8 → Rec.space r = 0 → (ok p → swall s tl c = .own p.bank p.row.toNat) ∧ (¬ ok p → swall s tl c = .bad .wallRange 0 [p.bank])) ∧
      (8 ≤ s.cd → Rec.space r = 0 → (0 ≤ p.row ∧ p.row < 256 → swall s tl c = .scratch (p.bank % 16 * 256 + p.row.toNat)) ∧
        (¬ (0 ≤ p.row ∧ p.row < 256) → swall s tl c = .bad .wallRange 0 [p.bank])) ∧
      (8 ≤ s.cd → Rec.space r = 1 → (ok p → swall s tl c = .remote (Rec.die r) p.bank p.row.toNat) ∧
        (¬ ok p → swall s tl c = .bad .wallRange 0 [p.bank])))

/-- R163-R166: loads. What a BANK-CONFLICT names goes with the fault, outside the rows of its record: log entry 95. -/
def Obligations.WallLoads : Prop :=
  ∀ (s : State) (sx tl c w : Nat),
    let words (r : Row) := (List.range 8).flatMap fun k => s.sRes 8 (sx + k) (rowWord r k)
    let taken (bank row : Nat) : Prop := ∃ r ∈ s.cx.resv, r.cyc = s.cx.prog ∧ r.bank = bank ∧ r.write = false ∧ r.row ≠ row
    let u (bank row : Nat) : State := s.reserving s.cx.prog bank row false false
    let clash (bank : Nat) : Out := .next (s.naming .bankConflict 0 [bank, s.cx.prog, s.cx.prog])
    let lands (v : State) (r : Row) : Prop := exec (.ldw sx tl c w) s = .next (v.flying (s.sRes 8 sx (rowWord r w))) ∧
      exec (.ldrow sx tl c 0) s = .next (v.flying (words r))
    (∀ bank row, swall s tl c = .own bank row →
      (taken bank row → exec (.ldw sx tl c w) s = clash bank ∧ exec (.ldrow sx tl c 0) s = clash bank) ∧
      (¬ taken bank row → lands (u bank row) (s.wallRow s.cd bank row))) ∧
    (∀ n, swall s tl c = .scratch n →
      (taken (n / 256) (n % 256) → exec (.ldw sx tl c w) s = clash (n / 256) ∧ exec (.ldrow sx tl c 0) s = clash (n / 256)) ∧
      (¬ taken (n / 256) (n % 256) → lands (u (n / 256) (n % 256)) (s.mem.row (memAddr kScratch s.cd (64 * n))))) ∧
    (∀ r, swall s tl c = .fill r → lands s r) ∧
    (∀ r, swall s tl c = .farFill r → s.me.entries.length < 256 →
      Completes (exec (.ldw sx tl c w) s) ∧ Completes (exec (.ldrow sx tl c 0) s)) ∧
    (∀ code x l, swall s tl c = .bad code x l → exec (.ldw sx tl c w) s = .next (s.naming code x l) ∧
      exec (.ldrow sx tl c 0) s = .next (s.naming code x l))

/-- R163-R166, R175: stores. The bytes stored are those of `WallWritePerforms`. What a BANK-CONFLICT names goes with the fault, outside
the rows of its record: log entry 95. -/
def Obligations.WallStores : Prop :=
  ∀ (s : State) (sx tl c w : Nat), w < 8 →
    let t := s.cx.prog + 6
    let stores : List Instr := [.stw sx tl c w, .strow sx tl c 0]
    let goes (bank row : Nat) : Prop :=
      let taken : Prop := ∃ r ∈ s.cx.resv, r.cyc = t ∧ r.bank = bank ∧ r.write = true ∧ r.row ≠ row
      let passed (r : Resv) : Prop := r.route = true ∧ r.bank = bank ∧ r.row = row ∧ t < r.cyc
      let u := s.reserving t bank row true false
      (taken → ∀ i ∈ stores, exec i s = .next (s.naming .bankConflict 0 [bank, t, t])) ∧
      (¬ taken → (∃ r ∈ s.cx.resv, passed r) → ∃ r ∈ s.cx.resv, passed r ∧
        ∀ i ∈ stores, exec i s = .next (s.naming .bankConflict 0 [bank, t, r.cyc])) ∧
      (¬ taken → (∀ r ∈ s.cx.resv, ¬ passed r) →
        (∃ be data, exec (.stw sx tl c w) s = .next (u.walling 6 bank row be data 0) ∧
          (∀ k, k < 64 → be.getLsbD k = decide (8 * w ≤ k ∧ k < 8 * w + 8)) ∧ rowWord data w = s.cx.rs sx) ∧
        (∃ data, exec (.strow sx tl c 0) s = .next (u.walling 6 bank row allBytes data 0) ∧
          ∀ k, k < 8 → rowWord data k = s.cx.rs (sx + k)))
    (∀ bank row, swall s tl c = .own bank row → goes bank row) ∧ (∀ n, swall s tl c = .scratch n → goes (n / 256) (n % 256)) ∧
    (∀ r, swall s tl c = .fill r ∨ swall s tl c = .farFill r → ∀ i ∈ stores, exec i s = .next s) ∧
    (∀ code x l, swall s tl c = .bad code x l → ∀ i ∈ stores, exec i s = .next (s.naming code x l))

/-- R75, R82, R96, R112. -/
def Obligations.WallWritePerforms : Prop :=
  ∀ (s : State) (d : Nat) (sh : Bool) (w : WPend), (s.stream d sh).wpend = [w] → w.due ≤ (s.stream d sh).prog →
    let base := if 8 ≤ d then memAddr kScratch d (64 * (256 * w.bank + w.row)) else wallAddr d w.bank w.row
    ∀ a, (s.after (landWalls d sh)).mem.read a =
      if base ≤ a ∧ a < base + 64 ∧ w.be.getLsbD (a - base) then rowByte w.data (a - base) else s.mem.read a

/-- R167, R296, R279, R280. That an update takes no more than 200 cycles and an open number of them is log entry 5. -/
def Obligations.CsrMoves : Prop :=
  ∀ (s : State) (sx n : Nat),
    let v := readCsr s.chip s.cd n
    let w := s.cx.rs sx
    let u := s.flying (s.sRes 1 sx v)
    exec (.csrr sx n) s = .next u ∧
    exec (.csrw sx n) s = .next (s.flying [s.flight 1 (.csr n w)]) ∧
    (s.sysMode = true →
      (n ≠ 0x10A → exec (.csrrp sx n) s = .next u) ∧
      (n = 0x10A → exec (.csrrp sx n) s = .next (u.withChip fun c =>
        if c.semOwner = 0 then { c with semOwner := 4 + s.cd, semGrants := c.semGrants + 1 } else c)) ∧
      (packageCsr n = false → exec (.csrwp sx n) s = .next (s.flying [s.flight 1 (.csr n w)])) ∧
      (packageCsr n = true → ∃ t, csrWhen s.chip s.cd (s.chip.now + 1) ≤ t ∧ t < csrWhen s.chip s.cd (s.chip.now + 1) + 200 ∧
        exec (.csrwp sx n) s = .next (((s.awaiting t (.packageCsrUpdate s.cd n w)).withChip fun c =>
          { c with free := c.free + 1 }).holding (.csr n w)))) ∧
    (s.sysMode = false → exec (.csrrp sx n) s = .next (s.trapped .privilegedOp 0) ∧
      exec (.csrwp sx n) s = .next (s.trapped .privilegedOp 0))

/-- R7, R63, R29, R34, R31, R278: fields of a CSR before and after a write lands. -/
def Obligations.CsrFields : Prop :=
  ∀ (s : State) (d due iss n : Nat) (w : Word), d < 8 → d < s.chip.dies.length →
    let t := s.after (landOne d false ⟨due, iss, .csr n w⟩)
    let old := (readCsr s.chip d n).toNat
    let new := (readCsr t.chip d n).toNat
    (n = 0x000 → fld new 0 3 = (if fld w.toNat 0 3 < 6 then fld w.toNat 0 3 else fld old 0 3) ∧
      fld new 3 2 = fld w.toNat 3 2 ∧ fld new 5 3 = 0 ∧ fld new 8 5 = max 4 (min 16 (fld w.toNat 8 5)) ∧ fld new 13 3 = 0 ∧
      (∀ k, k < 8 → bitOf new (16 + k) = (bitOf old (16 + k) && !bitOf w.toNat (16 + k))) ∧ fld new 24 40 = 0) ∧
    (n = 0x001 → new = fld w.toNat 0 3) ∧ (n = 0x002 → new = fld w.toNat 0 10) ∧
    (n = 0x003 → fld new 8 3 = fld w.toNat 8 3 ∧ fld new 0 8 = fld old 0 8) ∧
    (n = 0x102 → new = fld w.toNat 0 32) ∧
    (n ∈ [0x004, 0x005, 0x006, 0x007, 0x008, 0x009, 0x100, 0x101, 0x103, 0x10D] → t = s)

/-- R279, R280, R285. -/
def Obligations.PackageCsrUpdate : Prop :=
  ∀ (s : State) (d n : Nat) (v : Word), d < 12 →
    ∃ t, exec (.packageCsrUpdate d n v) s = .next t ∧ t.mem = s.mem ∧
      (n = 0x10A → t.chip.semOwner = if v = 0 ∧ s.chip.semOwner = 4 + d then 0 else s.chip.semOwner) ∧
      (n ≠ 0x10A → t.chip.semOwner = s.chip.semOwner) ∧
      t.chip.rtbase = s.chip.rtbase ∧ t.chip.lqstat = s.chip.lqstat ∧
      (0x200 ≤ n → n < 0x300 → ∀ e, e < s.chip.dies.length →
        let z := (SMap.get 0 (t.chip.die e).regionTable (n - 0x200)).toNat
        let badStride : Prop := fld v.toNat 16 6 < 16 ∨ 37 < fld v.toNat 16 6
        let badDies : Prop := fld v.toNat 12 4 ≠ 0
        (n % 4 ≠ 3 → z = v.toNat / 2 ^ 16 * 2 ^ 16) ∧
        (n % 4 = 3 → fld z 0 12 = fld v.toNat 0 12 ∧ fld z 12 4 = 0 ∧ z / 2 ^ 23 = 0 ∧
          (badStride → fld z 16 6 = 0) ∧ (¬ badStride → fld z 16 6 = fld v.toNat 16 6) ∧
          (badStride ∨ badDies → bitOf z 22 = false) ∧ (¬ badStride → ¬ badDies → bitOf z 22 = bitOf v.toNat 22))) ∧
      (∀ e, e < s.chip.dies.length → ∀ k, ¬ (0x200 ≤ n ∧ n < 0x300 ∧ k = n - 0x200) →
        SMap.get 0 (t.chip.die e).regionTable k = SMap.get 0 (s.chip.die e).regionTable k)

/-! ### Control flow, supersteps and exceptions -/

/-- R153-R157. That CODE-RANGE is checked before LOOP-EXIT is the model's reading (log entry 15). -/
def Obligations.Transfers : Prop :=
  ∀ (s : State) (p addr sa sd : Nat) (t : Bool) (off : BitVec 27) (far : BitVec 26),
    let pc := s.cx.pc
    let size := (s.chip.codeSize s.cd : Int)
    let breach (x : Int) (exempt : Bool) : Prop := ∃ l ∈ s.cx.loops.head?,
      pc = l.last ∨ (exempt = false ∧ (x < l.first ∨ (l.last : Int) < x))
    let goes (o : Out) (x : Int) (pen : Nat) (exempt : Bool) (u : State) : Prop :=
      (x < 0 ∨ size ≤ x → o = .next (s.trapped .codeRange 0)) ∧
      (0 ≤ x → x < size → breach x exempt → o = .next (s.trapped .loopExit 0)) ∧
      (0 ≤ x → x < size → ¬ breach x exempt → o = .next (u.withCur fun v => { v with jump := some (x.toNat, pen) }))
    (s.cx.rp p = t → goes (exec (.br p t off) s) (pc + off.toInt) 2 false s) ∧
    (s.cx.rp p ≠ t → exec (.br p t off) s = .next s) ∧
    goes (exec (.jmp addr) s) addr 2 false s ∧
    goes (exec (.jmpr sa) s) (pc + (s.cx.rs sa).toInt) 3 false s ∧
    goes (exec (.call sd far) s) (pc + far.toInt) 2 true (s.flying (s.sRes 1 sd (BitVec.ofNat 64 (pc + 1)))) ∧
    goes (exec (.ret sa) s) ((s.cx.rs sa).toNat % 2 ^ 32 : Nat) 3 true s

/-- R30, R35, R40, R41, R153, R154, R158, R159. The order of the checks (log entry 137) and that the enclosing body is the innermost open
level (log entry 138) are the model's readings. A skip or a break that would continue past the code range traps CODE-RANGE at
once: the model's reading (log entry 16). -/
def Obligations.LoopsOpen : Prop :=
  ∀ (s : State) (sa len e q : Nat),
    let x := s.cx
    let last := x.pc + len
    let n := (x.rs sa).toNat % 2 ^ 32
    let trap (c : Code) : Out := .next (s.trapped c 0)
    let skip : Out := .next (s.withCur fun u => { u with jump := some (last + 1, 2) })
    let opening (k : LoopKind) (e : Nat) : State := s.withCur fun u => { u with level := some ⟨x.pc + 1, last, k, 0, n + e - 1, e, n⟩ }
    let stages : List Pend := (List.range 8).map (fun k => s.flight 1 (.p (8 + k) false)) ++ [s.flight 1 (.p (physP (x.rotb - 1) 8) true)]
    let popped : State := s.withCur fun u => { u with extra := 2 }
    let own : Bool := (s.chip.cur.bundle.map (·.pbv)).getD false
    let loops := [Instr.loop sa len, Instr.loopswp sa len e]
    (s.chip.codeSize s.cd ≤ last → ∀ i ∈ .loopq q len :: loops, exec i s = trap .codeRange) ∧
    (last < s.chip.codeSize s.cd → (∃ l ∈ x.loops.head?, l.last < last) → ∀ i ∈ .loopq q len :: loops, exec i s = trap .loopExit) ∧
    (last < s.chip.codeSize s.cd → (∀ l ∈ x.loops.head?, last ≤ l.last) →
      (n = 0 → last + 1 = s.chip.codeSize s.cd → ∀ i ∈ loops, exec i s = trap .codeRange) ∧
      (n = 0 → last + 1 < s.chip.codeSize s.cd → ∀ i ∈ loops, exec i s = skip) ∧
      (0 < n → 6 ≤ x.loops.length → ∀ i ∈ loops, exec i s = trap .loopDepth) ∧
      (0 < n → x.loops.length < 6 → exec (.loop sa len) s = .next (opening .count 0) ∧
        exec (.loopswp sa len e) s = .next ((opening .swp e).flying stages)) ∧
      (6 ≤ x.loops.length → exec (.loopq q len) s = trap .loopDepth) ∧
      (x.loops.length < 6 → s.me.entries.length < 256 →
        exec (.loopq q len) s = .next (popped.named 2 (.loopq q (x.pc + 1) last own))) ∧
      (x.loops.length < 6 → 256 ≤ s.me.entries.length → exec (.loopq q len) s = .next (popped.trapped .landingFull 0))) ∧
    (x.loops = [] → exec .lbrk s = trap .loopDepth) ∧
    (∀ l ∈ x.loops.head?, (l.last + 1 < s.chip.codeSize s.cd →
        exec .lbrk s = .next (s.withCur fun u => { u with brk := true, jump := some (l.last + 1, 2) })) ∧
      (s.chip.codeSize s.cd ≤ l.last + 1 → exec .lbrk s = trap .codeRange))

/-- R24, R26, R30, R35, R153, R154, R343. That a USER-TRAP leaves the position at its bundle (log entries 24 and 30), and that a jump by a
skipped loop or an LBRK leaves outer levels that end on the bundle unresolved (log entries 139 and 140), are the model's readings. -/
def Obligations.PositionAfter : Prop :=
  ∀ (s : State) (b : Bundle), s.cd < s.chip.dies.length →
    let x := s.cx
    let u := s.chip.cur
    let t := s.after (afterIssue b)
    let y := t.cx
    let base := x.prog + 1 + b.stall
    let blockIs (transfer : Bool) : Prop := y.block =
      if b.pbv then some ⟨(List.range (b.pblen + 1)).map fun j => bitOf b.pbpat j, x.rp b.pbp⟩
      else if transfer then none
      else match x.block with
        | some k => if k.pat.length ≤ 1 then none else some ⟨k.pat.drop 1, k.val⟩
        | none => none
    let trapped := s.me.inShadow = false ∧ ∃ q, s.me.trap = some q ∧ q.cls = 'U'
    t.mem = s.mem ∧ (∀ d, d ≠ s.cd → t.chip.die d = s.chip.die d) ∧ (trapped → blockIs true ∧ y = { x with block := y.block }) ∧
    (¬ trapped → y = { x with pc := y.pc, nextIssue := y.nextIssue, block := y.block, loops := y.loops, rotb := y.rotb, pend := y.pend } ∧
    (∀ a pen, u.jump = some (a, pen) → y.pc = a ∧ y.nextIssue = base + pen ∧ blockIs true ∧
      y.loops = (if u.brk then x.loops.drop 1 else x.loops) ∧ y.rotb = x.rotb ∧ y.pend = x.pend) ∧
    (∀ l, u.jump = none → u.level = some l → y.pc = x.pc + 1 ∧ y.nextIssue = base ∧ blockIs false ∧ y.loops = l :: x.loops ∧
      y.rotb = (if l.kind = .swp then x.rotb - 1 else x.rotb) ∧ y.pend = x.pend) ∧
    (∀ ended rest, u.jump = none → u.level = none → x.loops = ended ++ rest → (∀ k ∈ ended, k.last = x.pc ∧ k.remain = 0) →
      ((∀ k ∈ rest.head?, k.last ≠ x.pc) → y.pc = x.pc + 1 ∧ y.nextIssue = base + u.extra ∧ blockIs false ∧ y.loops = rest ∧
        y.rotb = x.rotb ∧ y.pend = x.pend) ∧
      (∀ k r, rest = k :: r → k.last = x.pc → 0 < k.remain →
        let rotb := if k.kind = .swp then x.rotb - 1 else x.rotb
        y.pc = k.first ∧ y.nextIssue = base ∧ blockIs true ∧ y.rotb = rotb ∧
        y.loops = { k with index := k.index + 1, remain := k.remain - 1, drain := min k.drain (k.remain - 1) } :: r ∧
        y.pend = x.pend ++ (if k.kind = .swp then [s.flight 1 (.p (physP rotb 8) (decide (k.index + 1 < k.iters)))] else []))))

/-- R336, R338, R342, R26. A die that runs no launch writes no record: the model's choice (log entry 12). -/
def Obligations.TrapTaken : Prop :=
  (∀ (s : State) (d : Nat) (q : Trap), d < s.chip.dies.length →
    let x := s.chip.die d
    let t := s.after (takeTrap d q)
    let u := s.withDie d fun z => { z with
      trap := some { q with record := s.chip.nextId, ready := x.launch.isNone }
      main := if q.cls = 'I' ∨ q.cls = 'U' then { x.main with block := none } else x.main }
    (x.inShadow = true → t = (s.withDie d fun z => { z with trap := some { q with code := .doubleFault, cls := 'F', detail := 0, row3 := 0, row4 := 0 } }).awaiting
      s.chip.now (.holdTimeout d)) ∧
    (x.inShadow = false → x.launch = none → t = u.awaiting s.chip.now (.shadowEntry d)) ∧
    (x.inShadow = false → ∀ l ∈ s.chip.launches.find? fun l => some l.id == x.launch, t = u.withChip fun c => { c with
      records := c.records ++ [⟨l.id, d, s.chip.nextId, recordRows d x q⟩], nextId := s.chip.nextId + 1 })) ∧
  (∀ ps : List PRecord,
    let o := ps.foldl (fun l p => byDie p l) []
    o.Perm ps ∧ o.Pairwise (fun p q => p.die ≤ q.die) ∧ (∀ d, o.filter (·.die = d) = ps.filter (·.die = d)) ∧
    ∀ s : State, s.chip.records = ps → s.after placeRecords =
      if ps = [] then s else (s.withChip fun c => { c with records := [] }).after (M.each o placeRecord)) ∧
  ∀ (s : State) (p : PRecord), p.die < s.chip.dies.length → ∀ l ∈ s.chip.launches.find? fun l => l.id == p.launch,
    let x := s.chip.die p.die
    let t := s.after (placeRecord p)
    let y := t.chip.die p.die
    let addr := s.chip.frp l.region + 512 * (l.records % 128)
    let mark (q : Trap) : Trap := if q.record = p.id then { q with addr := some (BitVec.ofNat 64 addr) } else q
    t.mem = s.mem ∧ (∀ e, e ≠ p.die → (t.chip.die e).still = (s.chip.die e).still) ∧
    y.still = { x.still with faultrec := BitVec.ofNat 64 addr, trap := x.trap.map mark, trapQ := x.trapQ.map mark } ∧
    t.chip.launches = s.chip.launches.map (fun m => if m.id = l.id then { m with records := m.records + 1 } else m) ∧
    ∃ rows, t.whats true = s.whats true ++ rows ∧ rows.length = 8 ∧
      ∀ k a, rows[k]? = some a → a.kind = .record ∧ a.die = p.die ∧ a.target = .virt (addr + 64 * k) 0 ∧ a.be = allBytes ∧
        a.data = p.rows.getD k 0

/-- R273, R338, R339, R340. -/
def Obligations.RecordRows : Prop :=
  ∀ (d : Nat) (x : Die) (t : Trap), d < 16 → t.site.region < 2 ^ 16 → t.bundle < 2 ^ 32 → t.prog < 2 ^ 64 →
    t.site.loops.length < 7 →
    let l := recordRows d x t
    let head := (l.getD 0 0).toNat
    let loops := (l.getD 1 0).toNat
    l.length = 8 ∧ l.getD 2 0 = t.row2.getD (progressRow x) ∧ l.getD 3 0 = t.row3 ∧ l.getD 4 0 = t.row4 ∧ l.drop 5 = [0, 0, 0] ∧
    fld head 0 16 = t.code.num ∧ fld head 16 3 = (if t.hdr then 0 else t.slot.num) ∧ bitOf head 19 = t.hdr ∧
    fld head 20 4 = d ∧ fld head 24 8 = x.inc.toNat ∧ fld head 32 16 = t.site.region ∧ fld head 64 32 = t.bundle ∧
    fld head 96 32 = t.site.ssnum.toNat ∧ fld head 128 64 = t.prog ∧ fld head 192 64 = t.detail.toNat ∧
    fld head 256 3 = t.site.loops.length ∧ fld loops 480 10 = t.site.rotb.toNat ∧
    (∀ n k, t.site.loops.reverse[n]? = some k → k.first < 2 ^ 16 → k.last < 2 ^ 16 → k.remain < 2 ^ 32 →
      fld loops (80 * n) 16 = k.first ∧ fld loops (80 * n + 16) 16 = k.last ∧ fld loops (80 * n + 32) 32 = k.remain)

/-- R26, R272, R297, R342, R343. The return after a USER-TRAP is the model's reading (log entries 24 and 30). -/
def Obligations.ShadowEntryReturn : Prop :=
  ∀ (s : State) (d : Nat) (q : Trap), d < 12 → d < s.chip.dies.length → (s.chip.die d).trap = some q →
    let x := s.chip.die d
    let header := (s.mem.row (memAddr kCode d (64 * (x.terms.codeBase d + x.main.pc)))).toNat % 16
    let squashed : Ctx := { x.main with
      pc := x.main.pc + 1, nextIssue := x.main.prog + 1 + header,
      block := (x.main.block.bind PBlock.next), loops := x.main.loops.dropWhile fun l => l.last == x.main.pc }
    let returned : State := s.withDie d fun z => { z with
      inShadow := false, tcause := 0, trap := none, main := if q.cls = 'I' then squashed else if q.cls = 'U' then { squashed with nextIssue := squashed.nextIssue - 1, block := x.main.block } else z.main }
    Completes (exec (.shadowEntry d) s) ∧
    (q.entry = none → x.trapQ = [] → s.after (returnFrom d) = returned) ∧
    (x.inShadow = false → q.ready = false → exec (.shadowEntry d) s = .next s) ∧
    (x.inShadow = false → q.ready = true → q.cls ≠ 'F' → q.cls ≠ 'T' →
      (x.terms.iskip = false ∨ (q.cls ≠ 'I' ∧ q.cls ≠ 'U') →
        exec (.shadowEntry d) s = .next (s.withDie d fun z => { z with
          inShadow := true, tcause := BitVec.ofNat 16 q.code.num, faultrec := q.addr.getD z.faultrec,
          shadow := { z.shadow with pc := z.tvec.toNat, nextIssue := z.shadow.prog, loops := [], block := none, rotb := 0 } })) ∧
      (x.terms.iskip = true → q.cls = 'I' ∨ q.cls = 'U' → q.entry = none → x.trapQ = [] → exec (.shadowEntry d) s = .next returned)) ∧
    (∀ b lat, s.cd = d → x.inShadow = true → s.chip.cur.tret = true → s.chip.cur.test = false → b.pbv = true → q.entry = none → x.trapQ = [] →
      ((s.after (finishBundle d b lat)).chip.die d).main.block =
        some ⟨(List.range (b.pblen + 1)).map fun j => bitOf b.pbpat j, x.shadow.rp b.pbp⟩) ∧
    (s.sysMode = false → exec .tret s = .next (s.trapped .privilegedOp 0)) ∧
    (s.sysMode = true → s.me.inShadow = false → exec .tret s = .next (s.trapped .tretState 0)) ∧
    (s.me.inShadow = true → exec .tret s = .next (s.withCur fun u => { u with tret := true }))

/-- R161, R117, R337, R343. -/
def Obligations.TrapOps : Prop :=
  ∀ (s : State), s.cd < s.chip.dies.length →
    (∀ n, 0 < n → n < 256 → (Code.userTrap n).num = 0x100 + n ∧
      exec (.trap n) s = .next (s.after (takeTrap s.cd {
        code := .userTrap n, slot := .s0, hdr := false, bundle := s.cx.pc, prog := s.cx.prog, site := s.me.site s.cx .s0, detail := 0,
        row3 := 0, row4 := 0, cls := 'U', record := s.chip.nextId, ready := false, entry := none }))) ∧
    (s.me.inShadow = true → exec (.trap 0) s = .next ((s.withMe fun x => { x with
      trap := x.trap.map fun t => { t with cls := 'T' } }).awaiting s.chip.now (.holdTimeout s.cd))) ∧
    (s.me.inShadow = false → ∃ t, exec (.trap 0) s = .next t ∧ t.mem = s.mem ∧
      t.chip.dies = (s.withMe fun x => { x with run := .ended }).chip.dies ∧ t.chip.accs = s.chip.accs ∧
      (∀ k ∈ t.chip.launches, some k.id = s.me.launch → s.cd ∈ k.endedDies) ∧
      (∀ l ∈ s.chip.launches.find? fun l => some l.id == s.me.launch,
        (∀ p ∈ l.parties ++ l.houses, p.1 = s.cd ∨ p.1 ∈ l.endedDies) → (s.chip.now, Instr.completionWord l.id) ∈ t.chip.events))

/-- R36, R37, R160, R214, R263. Which transfers the end of a phase waits for is the model's reading (log entry 130). -/
def Obligations.SuperstepEnds : Prop :=
  ∀ (s : State) (lc id d : Nat), s.cd < s.chip.dies.length → d < 12 → d < s.chip.dies.length →
    (Completes (exec (.ssend lc) s) ∧ Completes (exec (.packageBarrierComplete id) s) ∧ Completes (exec (.commPhaseEnd d) s)) ∧
    (s.house = true → exec (.ssend lc) s = .next (s.trapped .illegalOp 0)) ∧
    (s.house = false → s.me.comm = true → exec (.ssend lc) s = .next (s.trapped .wrongPhase 0)) ∧
    (s.house = false → s.me.comm = false → ∃ t, exec (.ssend lc) s = .next t ∧ t.mem = s.mem ∧
      (∀ e, e ≠ s.cd → t.chip.die e = s.chip.die e) ∧ t.me.lc = lc ∧ t.me.run = (if s.me.launch.isSome then .barrier else s.me.run) ∧
      (s.besideArray = true → t.me.matrix = s.me.matrix ∧ t.chip.cur.test = true ∧ t.cx = s.cx) ∧
      (s.besideArray = false → s.me.matrix.busy = false → let f := max s.me.matrix.free s.cx.prog + 24
        t.me.matrix = { s.me.matrix with free := f } ∧ t.cx = { s.cx with ptimed := s.cx.ptimed ++ [(f, .selftestCnt s.cd)] }) ∧
      (s.besideArray = false → s.me.matrix.busy = true → t.cx = s.cx ∧ t.me.matrix = { s.me.matrix with
        follow := s.me.matrix.follow ++ [⟨none, none, [], true, none, [], 0, 0⟩] }) ∧
      (∀ l ∈ s.chip.launches.find? fun l => some l.id == s.me.launch,
        (∀ p ∈ l.parties, p.1 = s.cd ∨ p.1 ∈ l.atBarrier ∨ p.1 ∈ l.endedDies) →
        (s.chip.now + 64, Instr.packageBarrierComplete l.id) ∈ t.chip.events)) ∧
    (∀ l ∈ s.chip.launches.find? fun l => l.id == id, l.atBarrier ≠ [] → l.atBarrier.Nodup →
      (∀ e ∈ l.atBarrier, e < s.chip.dies.length ∧ (s.chip.die e).launch = some id ∧ (s.chip.die e).run = .barrier) →
      ∃ t, exec (.packageBarrierComplete id) s = .next t ∧ t.mem = s.mem ∧
        (∀ e, e ∉ l.atBarrier → t.chip.die e = s.chip.die e) ∧
        (∀ e ∈ l.atBarrier, let x := s.chip.die e
          t.chip.die e = { x with
            run := .running, comm := true, phaseAt := x.main.prog, router := x.routerNext, boundary := some x.main.prog,
            main := { x.main with nextIssue := x.main.prog, ptimed := x.main.ptimed ++ [(x.main.prog + x.lc, .commPhaseEnd e)] } })) ∧
    (phaseDone s d = true ↔ let x := s.chip.die d
        (∀ a ∈ s.chip.accs, a.launch = x.launch → a.kind = .send → a.die = d ∨ a.home = some d → a.stage ≠ .start ∧ a.stage ≠ .forwarded) ∧
        (∀ a ∈ s.chip.accs, a.launch = x.launch → a.kind = .osend → a.die = d → a.sh = false → a.prog < x.phaseAt) ∧
        (∀ q ∈ s.chip.oqueue ++ s.chip.owait, ∀ r ∈ q.2, r.die = d → r.launch = x.launch → r.prog < x.phaseAt) ∧
        (∀ e ∈ x.entries, (∃ b n t o, e.what = .recv b n t o) → e.arrived = true ∨ e.fault ≠ none)) ∧
    (phaseDone s d = false → exec (.commPhaseEnd d) s = .next (s.withDie d fun x => { x with
      main := { x.main with waits := x.main.waits ++ [.phaseEnd] } })) ∧
    (phaseDone s d = true → ∃ t, exec (.commPhaseEnd d) s = .next t ∧ t.mem = s.mem ∧ (t.chip.die d).comm = false ∧
      (t.chip.die d).ssnum = (s.chip.die d).ssnum + 1 ∧ (t.chip.die d).staging = [] ∧
      ((s.chip.die d).staging ≠ [] → ∃ q ∈ (t.chip.die d).trapQ, q.code = .sendUnmatched ∧ q.cls = 'N'))

/-! ### The A slot -/

/-- R88, R93, R172, R173, R273. -/
def Obligations.LayoutOps : Prop :=
  ∀ (s : State) (tl sx c b d : Nat) (imm : BitVec 19),
    let x := s.cx
    let word (r : Rec) (k : Nat) : Word := r.extractLsb' (64 * k) 64
    let wrap (z : Int) : Int := z.bmod (2 ^ 24)
    let gives (o : Out) (f : Nat → Int) : Prop := ∃ y : Coord, o = .next (s.flying [s.flight 1 (.c c y)]) ∧ ∀ k, k < 9 → coordX y k = f k
    (∀ r : Rec, recCheck r = none ↔
      Rec.space r ≤ 2 ∧ 1 ≤ Rec.rank r ∧ Rec.rank r ≤ 9 ∧ Rec.fmt r ≤ 11 ∧ (Rec.space r = 2 → Rec.fmt r = 0) ∧ Rec.f r 76 4 = 0 ∧
      Rec.lbc r ≤ 10 ∧ Rec.f r 114 14 = 0 ∧ Rec.f r 736 32 = 0 ∧ (Rec.space r ≤ 1 → Rec.f r 11 49 = 0) ∧
      (Rec.space r = 0 → Rec.f r 60 4 = 0) ∧ (Rec.space r = 1 → Rec.die r < 8)) ∧
    (∃ r : Rec, (∀ k, k < 12 → word r k = x.rs (sx + k)) ∧
      (recCheck r = none → exec (.tlw tl sx) s = .next (s.flying [s.flight 1 (.tl tl r)])) ∧
      (∀ bit, recCheck r = some bit → ∃ detail, exec (.tlw tl sx) s = .next (s.trapped .layoutReserved detail) ∧
        fld detail.toNat 0 9 = tl % 512 ∧ fld detail.toNat 9 10 = bit % 1024 ∧ fld detail.toNat 19 1 = 0 ∧
        fld detail.toNat 32 16 = Rec.ver (x.rtl tl))) ∧
    exec (.tlr tl sx) s = .next (s.flying ((List.range 12).flatMap fun k => s.sRes 1 (sx + k) (word (x.rtl tl) k))) ∧
    (d < 9 → gives (exec (.cset c d sx) s) (fun k => if k = d then wrap (x.rs sx).toNat else coordX (x.rc c) k) ∧
      gives (exec (.cinc c d imm) s) (fun k => if k = d then wrap (coordX (x.rc c) k + imm.toInt) else coordX (x.rc c) k) ∧
      exec (.cget c d sx) s = .next (s.flying (s.sRes 1 sx (BitVec.ofInt 64 (coordX (x.rc c) d))))) ∧
    gives (exec (.cstep c b) s) fun k => wrap (coordX (x.rc c) k + coordX (x.rc b) k)

/-- R76, R89, R91, R163, R168-R171. What a WALL-RANGE or a BANK-CONFLICT names goes with the fault, outside the rows of its record: log
entry 95. -/
def Obligations.NamesRows : Prop :=
  (∀ (r : Rec) (c : Coord),
      let nb : Nat := 2 ^ Rec.lbc r
      (offsetOf r (coordX c) = none → ∀ g, aRows r c g = .beyond r) ∧
      (∀ o, offsetOf r (coordX c) = some o →
        let p := wallPos r o
        let n := o / (512 / fmtWidth (Rec.fmt r) : Nat)
        (p.pos : Int) = (n % nb + (Rec.skew r : Int) * (n / nb)) % nb ∧ p.bank = (Rec.fbank r + p.pos) % 1024 ∧
        (∃ l, aRows r c false = .rows l ∧ l.length = nb ∧ ∀ m : Nat, m < nb → l[m]? = some ((Rec.fbank r + m) % 1024, p.row)) ∧
        (∃ l, aRows r c true = .rows l ∧ l.length = nb ∧
          ∀ m : Nat, m < nb → l[m]? = some ((Rec.fbank r + (p.pos + m) % nb) % 1024, p.row + m)))) ∧
  ∀ (s : State) (tl c wtl wc : Nat) (g : Bool), s.cd < s.chip.dies.length →
    let lo := s.me.terms.banklo
    let hi := lo + s.me.terms.bankn
    let r := s.cx.rtl tl
    let rows (tl c : Nat) (g : Bool) (l : List (Nat × Int)) : Prop :=
      Rec.rank (s.cx.rtl tl) ≠ 0 ∧ Rec.space (s.cx.rtl tl) = 0 ∧ aRows (s.cx.rtl tl) (s.cx.rc c) g = .rows l
    let good (p : Nat × Int) : Prop := 0 ≤ p.2 ∧ p.2 < 1536 ∧ lo ≤ p.1 ∧ p.1 < hi
    let inWall (l : List (Nat × Int)) : Prop := ∀ p ∈ l, good p
    let outside (l : List (Nat × Int)) (o : Out) : Prop :=
      ∃ (k : Nat) (p : Nat × Int), l[k]? = some p ∧ ¬ good p ∧ (∀ (j : Nat) q, j < k → l[j]? = some q → good q) ∧ o = .next (s.naming .wallRange 0 [p.1])
    let taken (t : Nat) (p : Nat × Int) (w : Bool) : Prop :=
      ∃ q ∈ s.cx.resv, q.cyc = t ∧ q.bank = p.1 ∧ q.write = w ∧ q.row ≠ p.2.toNat
    let free (cyc : List Nat) (l : List (Nat × Int)) (w : Bool) : Prop := ∀ p ∈ l, ∀ t ∈ cyc, ¬ taken t p w
    let clashes (cyc : List Nat) (l : List (Nat × Int)) (w : Bool) (o : Out) : Prop :=
      ∃ p ∈ l, ∃ t ∈ cyc, taken t p w ∧ o = .next (s.naming .bankConflict 0 [p.1, t, t])
    let here : List Nat := [s.cx.prog]
    let named (l : List (Nat × Int)) : List (Nat × Nat) := l.map fun p => (p.1, p.2.toNat)
    let found (l : List (Nat × Int)) : List (Nat × Row) := l.map fun p => (p.1, s.wallRow s.cd p.1 p.2.toNat)
    let quiet (t : State) : Prop := t.mem = s.mem ∧ (∀ d, d ≠ s.cd → t.chip.die d = s.chip.die d) ∧
      t.chip = { s.chip with dies := t.chip.dies, cur := t.chip.cur } ∧
      t.cx = { s.cx with resv := t.cx.resv } ∧ t.me = s.me.modCtx fun _ => t.cx
    let holds (t : State) (cyc : List Nat) (l : List (Nat × Int)) (w : Bool) : Prop :=
      ∀ p ∈ l, ∀ k ∈ cyc, (⟨k, p.1, p.2.toNat, w, false⟩ : Resv) ∈ t.cx.resv
    let reading (g : Bool) : Instr := if g then .adiag tl c false else .aread tl c
    let writing (g : Bool) : Instr := if g then .adiag tl c true else .awrite tl c
    let reads : List Instr := [.aread tl c, .adiag tl c false, .arw tl c wtl wc]
    let writes : List Instr := [.awrite tl c, .adiag tl c true]
    (s.house = true → ∀ i ∈ reads ++ writes, exec i s = .next (s.trapped .illegalOp 0)) ∧
    (s.house = false →
      (Rec.rank r = 0 → ∃ x, ∀ i ∈ reads ++ writes, exec i s = .next (s.trapped .layoutReserved x)) ∧
      (Rec.rank r ≠ 0 → Rec.space r ≠ 0 → ∀ i ∈ reads ++ writes, exec i s = .next (s.trapped .wrongSpace 0)) ∧
      (∀ l, rows tl c g l → ¬ inWall l → ∀ i ∈ [reading g, writing g], outside l (exec i s)) ∧
      (∀ l, rows tl c g l → inWall l → ¬ free here l false → clashes here l false (exec (reading g) s)) ∧
      (∀ l, rows tl c g l → inWall l → ¬ free (nameCycles s) l true → clashes (nameCycles s) l true (exec (writing g) s)) ∧
      (∀ l, rows tl c false l → ¬ inWall l → outside l (exec (.arw tl c wtl wc) s)) ∧
      (∀ l, rows tl c false l → inWall l → ¬ free here l false → clashes here l false (exec (.arw tl c wtl wc) s)) ∧
      (∀ l, rows tl c g l → inWall l → free here l false → ∃ t, exec (reading g) s = .next t ∧ quiet t ∧
        t.chip.cur = { s.chip.cur with reads := found l } ∧ holds t here l false) ∧
      (∀ l, rows tl c g l → inWall l → free (nameCycles s) l true →
        ∃ t, exec (writing g) s = .next t ∧ quiet t ∧
          t.chip.cur = { s.chip.cur with names := named l } ∧ holds t (nameCycles s) l true) ∧
      (∀ l m, rows tl c false l → rows wtl wc false m → inWall l → inWall m → free here l false → free (nameCycles s) m true →
        ∃ t, exec (.arw tl c wtl wc) s = .next t ∧ quiet t ∧
          t.chip.cur = { s.chip.cur with reads := found l, names := named m } ∧ holds t here l false ∧ holds t (nameCycles s) m true) ∧
      (Rec.rank r ≠ 0 → Rec.space r = 0 → offsetOf r (coordX (s.cx.rc c)) = none →
        (∀ i ∈ [Instr.aread tl c, .adiag tl c false], exec i s = .next (s.withCur fun u => { u with
          reads := (List.range (2 ^ Rec.lbc r)).map fun n => ((Rec.fbank r + n) % 1024, fillRow (Rec.fmt r) (Rec.fill r)) })) ∧
        ∀ i ∈ writes, exec i s = .next s) ∧
      (∀ v, exec (.aread tl c) s = .next v →
        (∃ l, rows tl c false l ∧ inWall l ∧ free here l false) ∨
          (Rec.rank r ≠ 0 ∧ Rec.space r = 0 ∧ offsetOf r (coordX (s.cx.rc c)) = none) →
        exec (.arw tl c wtl wc) s = exec (.awrite wtl wc) v))

/-- R80, R85, R86, R174, R175, R163. What a WALL-RANGE or a BANK-CONFLICT names goes with the fault, outside the rows of its record: log
entry 95. -/
def Obligations.RouteStore : Prop :=
  ∀ (s : State) (xw vs pd tl c d : Nat), s.cd < s.chip.dies.length → d < 12 → d < s.chip.dies.length →
    let lo := s.me.terms.banklo
    let hi := lo + s.me.terms.bankn
    let r := s.cx.rtl tl
    let e := SMap.get 0 s.me.xw xw
    let place (o : Int) (k : Nat) : WallPos := rowPos r (o / (512 / fmtWidth (Rec.fmt r) : Nat) + (k : Int)) 0
    let okAt (o : Int) (k : Nat) : Prop := 0 ≤ (place o k).row ∧ (place o k).row < 1536 ∧ lo ≤ (place o k).bank ∧ (place o k).bank < hi
    let ok (o : Int) : Prop := ∀ k, k < 23 → okAt o k
    let taken (t : Nat) (p : WallPos) (w : Bool) : Prop :=
      ∃ q ∈ s.cx.resv, q.cyc = t ∧ q.bank = p.bank ∧ q.write = w ∧ q.row ≠ p.row.toNat
    let passes (t : Nat) (p : WallPos) (q : Resv) : Prop := q.route = true ∧ q.bank = p.bank ∧ q.row = p.row.toNat ∧ t < q.cyc
    let tensor : Prop := Rec.rank r ≠ 0 ∧ Rec.space r = 0
    let both : List Instr := [.xload xw tl c, .xsave xw tl c]
    let leaves (sh : Bool) (p q : Pend) : Prop := s.after (landOne d sh p) = s.after (modStream d sh fun y => { y with pend := y.pend ++ [q] })
    let reads : Prop := ∀ (sh : Bool) (due iss n k : Nat) (x : Route) (b row : Nat) (rest : List (Nat × Nat)), k < 23 → x.toNat < 2 ^ (512 * k) →
      (∃ y, leaves sh ⟨due, iss, .xread n k x ((b, row) :: rest)⟩ ⟨due + 1, iss, .xread n (k + 1) y rest⟩ ∧ y.toNat < 2 ^ (512 * (k + 1)) ∧
        y.extractLsb' (512 * k) 512 = s.wallRow d b row ∧ ∀ j, j < k → y.extractLsb' (512 * j) 512 = x.extractLsb' (512 * j) 512) ∧
      leaves sh ⟨due, iss, .xread n k x []⟩ ⟨due + 7, iss, .xw n x⟩ ∧
      s.after (landOne d sh ⟨due, iss, .xw n x⟩) = s.withDie d fun z => { z with xw := SMap.set 0 z.xw n x }
    let filled : Prop := ∀ ds : List Nat, ds.length = 1024 → (∀ x ∈ ds, x = 0xFFFF ∨ x < 1024) → (ds.filter (· ≠ 0xFFFF)).Nodup →
      ∃ es, es.length = 1024 ∧ solveRoute ds = solveRoute es ∧ ∀ i x, ds[i]? = some x →
        (x ≠ 0xFFFF → es[i]? = some x) ∧
        (x = 0xFFFF → es[i]? = ((List.range 1024).filter fun e => e ∉ ds)[(ds.take i).count 0xFFFF]?)
    let rotates : Prop := ∀ n p, n < 8 → p < 8 → octetOut (octetBits ((List.range 8).map fun k => (k + n) % 8).toArray) p = (p + n) % 8
    Completes (exec (.xsolveComplete d) s) ∧
    (s.house = true → ∀ i ∈ .xsolve xw vs pd :: both, exec i s = .next (s.trapped .illegalOp 0)) ∧
    (s.house = false →
      (s.me.solver ≠ none → exec (.xsolve xw vs pd) s = .next (s.trapped .solverBusy 0)) ∧
      (s.me.solver = none → s.me.inShadow = false → exec (.xsolve xw vs pd) s = .next (s.withMe fun x => { x with
        solver := some (s.cx.prog + 1200, xw, if pd = 0 then 0 else physP s.cx.rotb pd, s.cx.rv vs),
        main := { x.main with ptimed := x.main.ptimed ++ [(s.cx.prog + 1200, .xsolveComplete s.cd)] } })) ∧
      (Rec.rank r = 0 → ∃ x, ∀ i ∈ both, exec i s = .next (s.trapped .layoutReserved x)) ∧
      (Rec.rank r ≠ 0 → Rec.space r ≠ 0 → ∀ i ∈ both, exec i s = .next (s.trapped .wrongSpace 0)) ∧
      (tensor → offsetOf r (coordX (s.cx.rc c)) = none → ∀ i ∈ both, exec i s = .next (s.trapped .wallRange 0)) ∧
      (∀ o, tensor → offsetOf r (coordX (s.cx.rc c)) = some o →
        (¬ ok o → ∃ k, k < 23 ∧ ¬ okAt o k ∧ (∀ j, j < k → okAt o j) ∧ ∀ i ∈ both, exec i s = .next (s.naming .wallRange 0 [(place o k).bank])) ∧
        (ok o → (∃ k, k < 23 ∧ taken (s.cx.prog + k) (place o k) false) → ∃ k, k < 23 ∧ taken (s.cx.prog + k) (place o k) false ∧
          exec (.xload xw tl c) s = .next (s.naming .bankConflict 0 [(place o k).bank, s.cx.prog + k, s.cx.prog + k])) ∧
        (ok o → (∃ k, k < 23 ∧ (taken (s.cx.prog + 6 + k) (place o k) true ∨ ∃ q ∈ s.cx.resv, passes (s.cx.prog + 6 + k) (place o k) q)) →
          ∃ k, k < 23 ∧ ∃ q ∈ s.cx.resv, ((q.cyc = s.cx.prog + 6 + k ∧ q.bank = (place o k).bank ∧ q.write = true ∧ q.row ≠ (place o k).row.toNat) ∨
              passes (s.cx.prog + 6 + k) (place o k) q) ∧
            exec (.xsave xw tl c) s = .next (s.naming .bankConflict 0 [(place o k).bank, s.cx.prog + 6 + k, q.cyc])) ∧
        (ok o → (∀ k, k < 23 → ¬ taken (s.cx.prog + k) (place o k) false) →
          ∃ t rest, exec (.xload xw tl c) s = .next t ∧ t.mem = s.mem ∧ (∀ e, e ≠ s.cd → t.chip.die e = s.chip.die e) ∧
            rest = (List.range 22).map (fun k => ((place o (k + 1)).bank, (place o (k + 1)).row.toNat)) ∧
            t.cx = { s.cx with resv := t.cx.resv, pend := s.cx.pend ++
              [s.flight 1 (.xread xw 1 ((s.wallRow s.cd (place o 0).bank (place o 0).row.toNat).setWidth 11776) rest)] } ∧
            ∀ k, k < 23 → (⟨s.cx.prog + k, (place o k).bank, (place o k).row.toNat, false, true⟩ : Resv) ∈ t.cx.resv) ∧
        (ok o → (∀ k, k < 23 → ¬ taken (s.cx.prog + 6 + k) (place o k) true ∧ ∀ q ∈ s.cx.resv, ¬ passes (s.cx.prog + 6 + k) (place o k) q) →
          ∃ t, exec (.xsave xw tl c) s = .next t ∧ t.mem = s.mem ∧ (∀ e, e ≠ s.cd → t.chip.die e = s.chip.die e) ∧
            t.cx = { s.cx with resv := t.cx.resv, wpend := s.cx.wpend ++ (List.range 23).map fun k =>
              ⟨s.cx.prog + (6 + k), s.cx.prog, (place o k).bank, (place o k).row.toNat, allBytes, e.extractLsb' (512 * k) 512, 0, none⟩ }))) ∧
    reads ∧ filled ∧ rotates ∧
    (∀ due n p v, (s.chip.die d).solver = some (due, n, p, v) → p < 16 →
      let dest (i : Nat) := fld v.toNat (32 * i) 16
      let good : Prop := (∀ i, i < 1024 → dest i = 0xFFFF ∨ dest i < 1024) ∧
        ∀ i j, i < j → j < 1024 → dest i = dest j → dest i = 0xFFFF
      ∃ t, exec (.xsolveComplete d) s = .next t ∧ t.mem = s.mem ∧ (∀ e, e ≠ d → t.chip.die e = s.chip.die e) ∧
        (t.chip.die d).solver = none ∧
        (good → (t.chip.die d).xw = SMap.set 0 (s.chip.die d).xw n (solveRoute ((List.range 1024).map dest))) ∧
        (¬ good → (t.chip.die d).xw = (s.chip.die d).xw) ∧
        (0 < p → ((t.chip.die d).main.p.getLsbD p = true ↔ good) ∧
          ∀ q, q < 16 → q ≠ p → (t.chip.die d).main.p.getLsbD q = (s.chip.die d).main.p.getLsbD q))

/-! ### The vector slot -/

/-- R131, R176, R179-R182. -/
def Obligations.LaneIntegers : Prop :=
  ∀ (s : State) (a : VArgs),
    let x (k : Nat) := lane (if a.unit = 0 then s.cx.rv a.v1 else s.chip.cur.cas) k
    let y (k : Nat) := lane (s.cx.rv a.v2) k
    let gives (o : Out) (f : Nat → BitVec 32) : Prop := ∃ r, o = s.passes a r 0 ∧ ∀ k, k < 1024 → lane r k = f k
    let truth (p : Prop) [Decidable p] : BitVec 32 := if p then 0xFFFFFFFF else 0
    gives (exec (.vand a) s) (fun k => x k &&& y k) ∧ gives (exec (.vor a) s) (fun k => x k ||| y k) ∧
    gives (exec (.vxor a) s) (fun k => x k ^^^ y k) ∧ gives (exec (.vnot a) s) (fun k => ~~~x k) ∧
    gives (exec (.vshl a) s) (fun k => BitVec.ofNat 32 ((x k).toNat * 2 ^ ((y k).toNat % 32))) ∧
    gives (exec (.vshr a) s) (fun k => BitVec.ofNat 32 ((x k).toNat / 2 ^ ((y k).toNat % 32))) ∧
    gives (exec (.vsar a) s) (fun k => BitVec.ofInt 32 ((x k).toInt / 2 ^ ((y k).toNat % 32))) ∧
    gives (exec (.vsel a) s) (fun k => if lane (s.cx.rv a.vr) k = 0 then y k else x k) ∧ gives (exec (.vmov a) s) y ∧
    (a.ty = false → gives (exec (.vabs a) s) (fun k => x k &&& 0x7FFFFFFF) ∧ gives (exec (.vneg a) s) (fun k => x k ^^^ 0x80000000)) ∧
    (a.ty = true →
      gives (exec (.vadd a) s) (fun k => BitVec.ofInt 32 ((x k).toInt + (y k).toInt)) ∧
      gives (exec (.vsub a) s) (fun k => BitVec.ofInt 32 ((x k).toInt - (y k).toInt)) ∧
      gives (exec (.vmul a) s) (fun k => BitVec.ofInt 32 ((x k).toInt * (y k).toInt)) ∧
      gives (exec (.vfma a) s) (fun k => BitVec.ofInt 32 ((x k).toInt * (y k).toInt + (lane (s.cx.rv a.v3) k).toInt)) ∧
      gives (exec (.vmin a) s) (fun k => BitVec.ofInt 32 (min (x k).toInt (y k).toInt)) ∧
      gives (exec (.vmax a) s) (fun k => BitVec.ofInt 32 (max (x k).toInt (y k).toInt)) ∧
      gives (exec (.vabs a) s) (fun k => BitVec.ofInt 32 (x k).toInt.natAbs) ∧
      gives (exec (.vneg a) s) (fun k => BitVec.ofInt 32 (-(x k).toInt)) ∧
      gives (exec (.vcmpeq a) s) (fun k => truth (x k = y k)) ∧
      gives (exec (.vcmplt a) s) (fun k => truth ((x k).toInt < (y k).toInt)) ∧
      gives (exec (.vcmple a) s) (fun k => truth ((x k).toInt ≤ (y k).toInt)) ∧
      gives (exec (.vcmpne a) s) (fun k => truth (x k ≠ y k)))

/-- R62-R66, R69, R178, R180, R182. -/
def Obligations.LaneFloats : Prop :=
  ∀ (s : State) (a : VArgs), a.ty = false →
    let fp := s.me.fpctl
    let num (b : BitVec 32) : Machine.Num := inNum fp 1 b.toNat
    let c : RndCtx := if a.hasSel then fp.rcNo else fp.rc
    let rnd (k : Nat) : Nat := if a.hasSel then 0 else (lane (s.cx.rv a.vr) k).toNat
    let x (k : Nat) := num (lane (if a.unit = 0 then s.cx.rv a.v1 else s.chip.cur.cas) k)
    let y (k : Nat) := num (lane (s.cx.rv a.v2) k)
    let gives (o : Out) (f : Nat → Machine.Num) : Prop := ∃ r fl, o = s.passes a r fl ∧
      (∀ k, k < 1024 → lane r k = BitVec.ofNat 32 (roundTo 1 c (f k) (rnd k)).1 ∧
        ((x k).isNan = true ∨ (y k).isNan = true → lane r k = 0x7FC00000)) ∧
      ∀ b, fl.getLsbD b = true ↔ ∃ k, k < 1024 ∧ (roundTo 1 c (f k) (rnd k)).2.getLsbD b = true
    let ordered (f : Machine.Num → Machine.Num → Machine.Num) (k : Nat) : Machine.Num :=
      if (x k).isNan || (y k).isNan then .nan (x k == .nan true || y k == .nan true) else f (x k) (y k)
    let tells (o : Out) (f : Nat → Bool) : Prop := ∃ r fl, o = s.passes a r fl ∧
      (∀ k, k < 1024 → lane r k = if f k then 0xFFFFFFFF else 0) ∧
      fl = if ∃ k ∈ List.range 1024, x k = .nan true ∨ y k = .nan true then fNV else 0
    gives (exec (.vadd a) s) (fun k => Machine.Num.add c.rm (x k) (y k)) ∧
    gives (exec (.vsub a) s) (fun k => Machine.Num.add c.rm (x k) (y k).neg) ∧
    gives (exec (.vmul a) s) (fun k => Machine.Num.mul (x k) (y k)) ∧
    gives (exec (.vfma a) s) (fun k => Machine.Num.add c.rm (Machine.Num.mul (x k) (y k)) (num (lane (s.cx.rv a.v3) k))) ∧
    gives (exec (.vmin a) s) (ordered fun x y => if Machine.Num.lt x y then x else if Machine.Num.lt y x then y else if x.sign then x else y) ∧
    gives (exec (.vmax a) s) (ordered fun x y => if Machine.Num.lt x y then y else if Machine.Num.lt y x then x else if x.sign then y else x) ∧
    tells (exec (.vcmpeq a) s) (fun k => Machine.Num.eq (x k) (y k)) ∧ tells (exec (.vcmplt a) s) (fun k => Machine.Num.lt (x k) (y k)) ∧
    tells (exec (.vcmple a) s) (fun k => Machine.Num.lt (x k) (y k) || Machine.Num.eq (x k) (y k)) ∧
    tells (exec (.vcmpne a) s) (fun k => !Machine.Num.eq (x k) (y k))

/-- R53-R65, R68, R180, R183-R186. The model's own readings: IFZ on the narrow codes that
VDEQ takes (log entry 29), the precision of the special functions (log entry 105), no IFZ on the E4M3 byte of an OX4 quad (log entry 134),
and IFZ and OFZ in widening conversions (log entry 135). -/
def Obligations.Conversions : Prop :=
  let away (rm : RMode) (n rnd k : Nat) (neg : Bool) (g : Rat) : Prop := match rm with
    | .rne => 1 / 2 < g ∨ (g = 1 / 2 ∧ k % 2 = 1)
    | .rna => 1 / 2 ≤ g
    | .rtz => False
    | .rup => neg = false ∧ 0 < g
    | .rdn => neg = true ∧ 0 < g
    | .sr => ((rnd % 2 ^ n : Nat) : Int) < (g * 2 ^ n).floor
  let formats : List (Nat × Nat × Int × Nat × Int × Nat) := [(1, 23, -126, 2 ^ 24 - 1, 104, 0x7FC00000), (2, 7, -126, 2 ^ 8 - 1, 120, 0x7FC0),
    (3, 10, -14, 2 ^ 11 - 1, 5, 0x7E00), (4, 3, -6, 14, 5, 0x7F), (5, 2, -14, 7, 13, 0x7E), (6, 1, 0, 3, 1, 0),
    (16, 112, -16382, 2 ^ 113 - 1, 16271, 0xFFFF * 2 ^ 111)]
  let integers : List (Nat × Nat) := [(7, 8), (8, 4), (10, 32)]
  let signed (neg : Bool) (x : Rat) : Rat := if neg then -x else x
  (∀ (rm : RMode) (n rnd : Nat) (ofz neg nv : Bool) (e : Int),
    (∀ code mb emin bm be nan, (code, mb, emin, bm, be, nan) ∈ formats →
      let saturates : Bool := code == 4 || code == 6
      let r (x : Machine.Num) := roundTo code ⟨rm, n, ofz⟩ x rnd
      r (.nan nv) = (nan, if nv ∨ code = 6 then fNV else 0) ∧
      decodeNum code (r (.inf neg)).1 = (if saturates then .fin neg bm be false else .inf neg) ∧
      (r (.inf neg)).2 = (if saturates then fOF ||| fNX else 0) ∧
      decodeNum code (r (.fin neg 0 e false)).1 = .fin neg 0 (emin - mb) false ∧ (r (.fin neg 0 e false)).2 = 0 ∧
      ∀ (m k k' : Nat) (q q' : Int) (up up' : Bool), 0 < m →
        let x : Rat := m * 2 ^ e
        let cell (k : Nat) (q : Int) (up : Bool) : Prop := (k : Rat) * 2 ^ q ≤ x ∧ x < (k + 1 : Rat) * 2 ^ q ∧ k < 2 ^ (mb + 1) ∧
          (up = true ↔ away rm n rnd k neg ((x - k * 2 ^ q) / 2 ^ q))
        -- the grid of the format, and the grid of the same precision with an unbounded exponent
        cell k q up → emin - mb ≤ q → (emin - mb < q → 2 ^ mb ≤ k) → cell k' q' up' → 2 ^ mb ≤ k' →
        let y : Rat := (k + up.toNat : Nat) * 2 ^ q
        let full : Rat := (k' + up'.toNat : Nat) * 2 ^ q'
        let z := r (.fin neg m e false)
        ((bm : Rat) * 2 ^ be < y → z.2 = fOF ||| fNX ∧ decodeNum code z.1 =
          if saturates ∨ rm = .rtz ∨ (rm = .rup ∧ neg = true) ∨ (rm = .rdn ∧ neg = false) then .fin neg bm be false else .inf neg) ∧
        (y ≤ (bm : Rat) * 2 ^ be →
          (ofz = true → code ≤ 5 → 0 < y → y < 2 ^ emin → decodeNum code z.1 = .fin neg 0 (emin - mb) false ∧ z.2 = fUF ||| fNX) ∧
          (¬ (ofz = true ∧ code ≤ 5 ∧ 0 < y ∧ y < 2 ^ emin) →
            (∃ m' e', decodeNum code z.1 = .fin neg m' e' false ∧ (m' : Rat) * 2 ^ e' = y) ∧
            z.2 = (if code ≠ 6 ∧ y ≠ x ∧ full < 2 ^ emin then fUF else 0) ||| (if y ≠ x then fNX else 0)))) ∧
    (∀ code w, (code, w) ∈ integers →
      let r (x : Machine.Num) := roundTo code ⟨rm, n, ofz⟩ x rnd
      let hi : Int := 2 ^ (w - 1) - 1
      let lo : Int := -2 ^ (w - 1)
      let holds (z : Nat × Flags) (v : Int) (f : Flags) : Prop := z = ((v % 2 ^ w).toNat, f)
      r (.nan nv) = (0, fNV) ∧ holds (r (.inf neg)) (if neg then lo else hi) (fISAT ||| fNX) ∧
      ∀ (m k : Nat) (up : Bool), let x : Rat := m * 2 ^ e
        (k : Rat) ≤ x → x < (k + 1 : Rat) → (up = true ↔ away rm n rnd k neg (x - k)) →
        let v : Int := if neg then -(k + up.toNat : Nat) else (k + up.toNat : Nat)
        (lo ≤ v → v ≤ hi → holds (r (.fin neg m e false)) v (if (v : Rat) ≠ signed neg x then fNX else 0)) ∧
        (v < lo → holds (r (.fin neg m e false)) lo (fISAT ||| fNX)) ∧ (hi < v → holds (r (.fin neg m e false)) hi (fISAT ||| fNX)))) ∧
  (∀ (rm : RMode) (n k nv : Bool) (m p : Nat) (e f : Int) (x : Machine.Num),
    let a : Rat := signed n (m * 2 ^ e)
    let b : Rat := signed k (p * 2 ^ f)
    let sum := Machine.Num.add rm
    (∃ neg j g, sum (.fin n m e false) (.fin k p f false) = .fin neg j g false ∧ signed neg (j * 2 ^ g) = a + b ∧
      (a + b = 0 → (neg = true ↔ (m = 0 ∧ p = 0 ∧ n = true ∧ k = true) ∨ rm = .rdn))) ∧
    sum (.inf n) (.inf k) = (if n = k then .inf n else .nan true) ∧ sum (.inf n) (.fin k p f false) = .inf n ∧
    sum (.fin k p f false) (.inf n) = .inf n ∧ sum (.nan nv) x = .nan (nv || x == .nan true) ∧ sum x (.nan nv) = .nan (nv || x == .nan true)) ∧
  ∀ (s : State) (a : VArgs),
    let fp := s.me.fpctl
    let c : RndCtx := if a.hasSel then fp.rcNo else fp.rc
    let rnd (k : Nat) : Nat := if a.hasSel then 0 else (lane (s.cx.rv a.vr) k).toNat
    let x (k : Nat) : Nat := (lane (if a.unit = 0 then s.cx.rv a.v1 else s.chip.cur.cas) k).toNat
    let own (k : Nat) : Machine.Num := inNum fp 1 (lane (s.cx.rv a.v1) k).toNat
    let code := a.x.toNat % 16
    let dst := a.x.toNat / 16 % 16
    let all (r : Vec) (fl : Flags) (f : Nat → Nat × Flags) : Prop :=
      (∀ k, k < 1024 → lane r k = BitVec.ofNat 32 (f k).1) ∧
      ∀ b, fl.getLsbD b = true ↔ ∃ k, k < 1024 ∧ (f k).2.getLsbD b = true
    let unit (o : Out) (f : Nat → Nat × Flags) : Prop := ∃ r fl, o = s.passes a r fl ∧ all r fl f
    let special (o : Out) (f : Machine.Num → Machine.Num) : Prop := ∃ r fl, o = .next (s.flying (s.vRes 8 a.vd r ++ s.fRes 8 fl)) ∧
      all r fl fun k => roundTo 1 fp.rcNo (f (own k)) 0
    let block (k : Nat) := mxQuantise code c ((List.range 32).map fun j => inNum fp 1 (x (k / 32 * 32 + j)))
      ((List.range 32).map fun j => rnd (k / 32 * 32 + j))
    let packed (k : Nat) := ox4Encode c ((List.range 4).map fun j => inNum fp 1 (x (k / 4 * 4 + j)))
      ((List.range 4).map fun j => rnd (k / 4 * 4 + j))
    let quad (k : Nat) := ox4Decode (digits 4 (fun j => x (k / 4 * 4 + j)) 4)
    unit (exec (.vcvt a) s) (fun k => roundTo dst c (inNum fp code (x k % 2 ^ fmtWidth code)) (rnd k)) ∧
    (code ≠ 9 →
      unit (exec (.vdeq a) s) (fun k => roundTo 1 c (scaled (x k / 256 % 256) (inNum fp code (x k % 2 ^ fmtWidth code))) (rnd k)) ∧
      unit (exec (.vquant a) s) (fun k => ((block k).1 * 256 + (block k).2.1.getD (k % 32) 0, (block k).2.2))) ∧
    (code = 9 →
      unit (exec (.vdeq a) s) (fun k => let r := roundTo 1 c ((quad k).1.getD (k % 4) .zero) 0; (r.1, r.2 ||| (quad k).2)) ∧
      unit (exec (.vquant a) s) (fun k => ((packed k).1 / 2 ^ (4 * (k % 4)) % 16, (packed k).2))) ∧
    special (exec (.vexp2 a) s) exp2Num ∧ special (exec (.vlog2 a) s) log2Num ∧ special (exec (.vrcp a) s) rcpNum ∧
    special (exec (.vrsq a) s) rsqNum ∧ special (exec (.vgelu a) s) geluNum

/-- R187, R188. That the first value of a scan is taken without OFZ is the model's reading (log entry 142). -/
def Obligations.AxisOps : Prop :=
  ∀ (s : State) (a : VArgs),
    let x (k : Nat) := lane (s.cx.rv a.v1) k
    let amt (n : Nat) : Nat := (if a.x.getLsbD 12 then (s.cx.rs a.ss).toNat else a.x.toNat) % n
    let gives (o : Out) (lat : Nat) (f : Nat → Nat → BitVec 32) : Prop := ∃ r, o = .next (s.flying (s.vRes lat a.vd r)) ∧
      ∀ i j, i < 16 → j < 64 → lane r (64 * i + j) = f i j
    let op := a.x.toNat % 8
    let excl := a.x.getLsbD 3
    let row (i : Nat) : List (BitVec 32) := (List.range 64).map fun j => x (64 * i + j)
    let col (j : Nat) : List (BitVec 32) := (List.range 16).map fun i => x (64 * i + j)
    let join (p q : BitVec 32) : BitVec 32 := match op with
      | 0 => p + q
      | 1 => BitVec.ofInt 32 (min p.toInt q.toInt)
      | 2 => BitVec.ofInt 32 (max p.toInt q.toInt)
      | 3 => p &&& q
      | 4 => p ||| q
      | _ => p ^^^ q
    let unit : BitVec 32 := match op with | 1 => 0x7FFFFFFF | 2 => 0x80000000 | 3 => 0xFFFFFFFF | _ => 0
    let fold (l : List (BitVec 32)) : BitVec 32 := l.foldl join unit
    let before (l : List (BitVec 32)) (n : Nat) : BitVec 32 := fold (l.take (if excl then n else n + 1))
    let tree (o : Out) (lat n : Nat) (vals : Nat → Nat → List (BitVec 32)) : Prop :=
      let t (i j : Nat) := treeReduce (comb s.me.fpctl a.ty op) n ((vals i j).map BitVec.toNat)
      ∃ r fl, o = .next (s.flying (s.vRes lat a.vd r ++ s.fRes lat fl)) ∧
        (∀ i j, i < 16 → j < 64 → lane r (64 * i + j) = BitVec.ofNat 32 (t i j).1) ∧
        ∀ b, fl.getLsbD b = true ↔ ∃ i j, i < 16 ∧ j < 64 ∧ (t i j).2.getLsbD b = true
    let inf : Nat := match op with | 1 => 0x7F800000 | 2 => 0xFF800000 | _ => 0
    let first (v : BitVec 32) : Nat × Flags := if a.ty ∨ 3 ≤ op then (v.toNat, 0) else roundTo 1 ⟨.rne, 8, false⟩ (inNum s.me.fpctl 1 v.toNat) 0
    let scan (o : Out) (lat lines len : Nat) (at' : Nat → Nat → Nat) : Prop :=
      let step (acc : Nat → Nat → Nat) (m n : Nat) := comb s.me.fpctl a.ty op (acc m n) (x (at' m (n + 1))).toNat
      ∃ r fl acc, o = .next (s.flying (s.vRes lat a.vd r ++ s.fRes lat fl)) ∧
        (∀ m, m < lines → acc m 0 = (first (x (at' m 0))).1 ∧ ∀ n, n + 1 < len → acc m (n + 1) = (step acc m n).1) ∧
        (∀ m n, m < lines → n < len → lane r (at' m n) = BitVec.ofNat 32
          (if excl = false then acc m n else if 0 < n then acc m (n - 1) else if a.ty ∨ 3 ≤ op then unit.toNat else inf)) ∧
        ∀ b, fl.getLsbD b = true ↔ ∃ m, m < lines ∧
          ((first (x (at' m 0))).2.getLsbD b = true ∨ ∃ n, n + 1 < len ∧ (step acc m n).2.getLsbD b = true)
    gives (exec (.vrotr a) s) 3 (fun i j => x (64 * i + (j + 64 - amt 64) % 64)) ∧
    gives (exec (.vrotc a) s) 5 (fun i j => x (64 * ((i + 16 - amt 16) % 16) + j)) ∧
    gives (exec (.vbcr a) s) 3 (fun i _ => x (64 * i + amt 64)) ∧
    gives (exec (.vbcc a) s) 5 (fun _ j => x (64 * amt 16 + j)) ∧
    tree (exec (.vredr a) s) 3 6 (fun i _ => row i) ∧ tree (exec (.vredc a) s) 5 4 (fun _ j => col j) ∧
    (op < 6 → (a.ty = true ∨ 3 ≤ op) →
      gives (exec (.vredr a) s) 3 (fun i _ => fold (row i)) ∧ gives (exec (.vredc a) s) 5 (fun _ j => fold (col j)) ∧
      gives (exec (.vscanr a) s) 3 (fun i j => before (row i) j) ∧ gives (exec (.vscanc a) s) 5 (fun i j => before (col j) i)) ∧
    (op < 6 → scan (exec (.vscanr a) s) 3 16 64 (fun i j => 64 * i + j) ∧ scan (exec (.vscanc a) s) 5 64 16 (fun j i => 64 * i + j))

/-- R82, R83, R189-R193. -/
def Obligations.VectorMoves : Prop :=
  ∀ (s : State) (a : VArgs),
    let port (p : Nat) : Row := (portRow s.portRows p).getD 0
    let group (r : Vec) (g : Nat) : Prop := ∀ q, q < 64 → r.extractLsb' (512 * q) 512 = port (512 + 64 * g + q)
    let n := a.x.toNat % 4 + 1
    let w := match a.x.toNat % 4 with | 0 => 16 | 1 => 8 | _ => 4
    let part := a.x.toNat / 8 % 8
    let gives (o : Out) (lat : Nat) (f : Nat → BitVec 32) : Prop := ∃ r, o = .next (s.flying (s.vRes lat a.vd r)) ∧
      ∀ k, k < 1024 → lane r k = f k
    let mix (z : Word) : Word :=
      let z := (z ^^^ z >>> 30) * 0xBF58476D1CE4E5B9
      let z := (z ^^^ z >>> 27) * 0x94D049BB133111EB
      z ^^^ z >>> 31
    (n = 1 → ∃ r, group r 0 ∧ exec (.vld a) s = s.passes { a with loaded := true } r 0) ∧
    (1 < n → ∃ r : Nat → Vec, (∀ g, g < n → group (r g) g) ∧
      exec (.vld a) s = .next (s.flying ((List.range n).flatMap fun g => s.vRes 8 (a.vd + g) (r g)))) ∧
    (∀ b, s.chip.cur.bundle = some b →
      let stored : List WPend := (List.range n).flatMap fun g => (List.range 64).flatMap fun q =>
        match routeOut b.xw (s.routeEntry b.xw) (512 + 64 * g + q) with
        | none => []
        | some bank => (s.chip.cur.names.filter fun m => m.1 = bank).map fun m =>
            ⟨s.cx.prog + 6, s.cx.prog, bank, m.2, allBytes, (s.cx.rv (a.v1 + g)).extractLsb' (512 * q) 512, 1, none⟩
      exec (.vst a) s = .next (s.withCtx fun y => { y with wpend := y.wpend ++ stored })) ∧
    exec (.vmovs a) s = .next (s.flying (s.sRes 3 a.ss (BitVec.ofNat 64 (lane (s.cx.rv a.v1) (a.x.toNat % 1024)).toNat))) ∧
    gives (exec (.vsplat a) s) 2 (fun _ => BitVec.ofNat 32 (s.cx.rs a.ss).toNat) ∧
    gives (exec (.viota a) s) 2 (fun k => BitVec.ofNat 32 ((s.cx.rs a.ss).toNat + k)) ∧
    gives (exec (.vrand a) s) 4 (fun k => BitVec.ofNat 32 (mix (s.cx.rs a.ss + BitVec.ofNat 64 (k + 1) * 0x9E3779B97F4A7C15)).toNat) ∧
    (part * w < 32 → ∃ r, exec (.vpack a) s = .next (s.flying (s.vRes 4 a.vd r)) ∧ ∀ k, k < 32768 → r.getLsbD k =
      if 1024 * w * part ≤ k ∧ k < 1024 * w * (part + 1) then
        (lane (s.cx.rv a.v1) ((k - 1024 * w * part) / w)).getLsbD ((k - 1024 * w * part) % w)
      else (s.cx.rv a.v2).getLsbD k) ∧
    (part * w < 32 → gives (exec (.vunpk a) s) 4 fun k =>
      let e := (s.cx.rv a.v1).toNat / 2 ^ (w * (1024 * part + k)) % 2 ^ w
      if a.x.getLsbD 2 then BitVec.ofInt 32 (if 2 ^ (w - 1) ≤ e then (e : Int) - 2 ^ w else e) else BitVec.ofNat 32 e)

/-! ### The matrix slot -/

/-- R194-R196, R200, R205-R207, R209, R211, R212, R214, R217. -/
def Obligations.MatrixSetup : Prop :=
  ∀ (s : State) (a : MArgs), s.cd < s.chip.dies.length →
    let m := s.me.matrix
    let st := max (s.cx.prog + 6) m.free
    let wait := st - s.cx.prog
    let test := (m.cnt.toNat + 1) % 4096 = 0
    let port (p : Nat) : Row := (portRow s.portRows p).getD 0
    let takes (o : Out) (l : List Pend) (p : Matrix → Prop) : Prop := ∃ t, o = .next t ∧ t.mem = s.mem ∧
      (∀ d, d ≠ s.cd → t.chip.die d = s.chip.die d) ∧ t.me.fpctl = s.me.fpctl ∧
      t.cx = { s.cx with pend := s.cx.pend ++ l, ptimed := s.cx.ptimed ++ if test then [(st + 25, Instr.selftestCnt s.cd)] else [] } ∧
      t.me.matrix = { m with
        cnt := m.cnt + 1, free := if test then st + 25 else st + 1, tile := t.me.matrix.tile, modes := t.me.matrix.modes,
        dirty := t.me.matrix.dirty } ∧
      p t.me.matrix
    let km := (s.cx.rs a.ss).toNat % 16
    (m.busy = true → ∀ i ∈ [Instr.mloadb a, .mzero a, .mshape a], exec i s = .next (s.trapped .matrixBusy 0)) ∧
    (m.busy = false → m.avail m.tile.km = false → ∀ i ∈ [Instr.mloadb a, .mzero a], exec i s = .next (s.trapped .shapeLost 0)) ∧
    (m.busy = false → m.avail m.tile.km = true →
      (a.fb ≠ 11 → a.len < 16 → takes (exec (.mloadb a) s) (s.aRes wait) fun u => u.modes = m.modes ∧
        u.tile.tfmt = a.fb ∧ u.tile.km = m.tile.km ∧
        (∀ r h, r < 16 → h < 16 → (u.tile.row (16 * a.len + r)).extractLsb' (512 * h) 512 = port (256 + 16 * r + h)) ∧
        (∀ k, k / 16 ≠ a.len → u.tile.row k = m.tile.row k) ∧
        (∀ b, b < 64 → (a.len = 0 → ∀ j, j < 256 → (u.tile.scale b).extractLsb' (8 * j) 8 = 0x7F) ∧
          (a.len ≠ 0 → u.tile.scale b = m.tile.scale b))) ∧
      (a.fb = 11 → takes (exec (.mloadb a) s) (s.aRes wait) fun u => u.modes = m.modes ∧ u.tile.tfmt = m.tile.tfmt ∧
        u.tile.km = m.tile.km ∧ (∀ k, u.tile.row k = m.tile.row k) ∧
        ∀ b h, b < 64 → h < 4 → (u.tile.scale b).extractLsb' (512 * h) 512 = port (256 + 4 * b + h)) ∧
      takes (exec (.mzero a) s) (s.flight (wait + 262) (.accClear a.acc (decide (a.fa % 2 = 1))) :: s.aRes (wait + 262)) fun u =>
        u.tile = m.tile ∧ ∀ n, n < 4 → u.modes.getLsbD n = if n = a.acc then decide (a.fa % 2 = 1) else m.modes.getLsbD n) ∧
    (m.busy = false → (km = 0 → exec (.mshape a) s = .next (s.trapped .matrixRange 0)) ∧
      (km ≠ 0 → m.avail km = false → exec (.mshape a) s = .next (s.trapped .shapeLost 0)) ∧
      (km ≠ 0 → m.avail km = true → takes (exec (.mshape a) s) (s.aRes wait) fun u => u.modes = m.modes ∧
        u.tile = { m.tile with km := km })) ∧
    (∃ v : Word, exec (.mstat a) s = .next (s.flying (s.sRes 1 a.ss v ++ s.aRes 1)) ∧
      (∀ k, k < 16 → v.getLsbD k = m.avail k) ∧ fld v.toNat 16 4 = m.tile.km % 16 ∧ v.getLsbD 20 = m.spareFor.isSome ∧
      fld v.toNat 21 4 = (m.spareFor.getD 0) % 16 ∧ fld v.toNat 25 4 = m.modes.toNat ∧ fld v.toNat 29 4 = m.tile.tfmt % 16 ∧
      fld v.toNat 33 12 = m.cnt.toNat ∧ fld v.toNat 45 19 = 0) ∧
    (∃ b : EpBlock, (∀ k, k < 4 → b.extractLsb' (512 * k) 512 = port (256 + k)) ∧
      (epValid b = true → exec (.mepiLd a) s = .next (s.flying (s.flight 7 (.ep a.epb b) :: s.aRes 7))) ∧
      (epValid b = false → exec (.mepiLd a) s = .next (s.trapped .epilogueReserved 0)))

/-- R66, R67, R195-R199, R201-R204, R214, R217. -/
def Obligations.MatrixProducts : Prop :=
  (∀ (s : State) (op : MOp) (a : MArgs), s.cd < s.chip.dies.length →
    let i : Instr := match op with | .mma => .mma a | .mmag => .mmag a | .mmac => .mmac a | .mrank => .mrank a
    let m := s.me.matrix
    let st := max (s.cx.prog + 6) m.free
    let w := (s.cx.rs a.ss).toNat
    let n := a.len + 1
    let row0 := if op = .mmac then w / 256 % 256 else w % 256
    let off (k : Nat) : Int := (lane (s.cx.rv a.vs) k).toInt
    let grouped (q : Nat) : Prop := op ≠ .mmag ∨ ∃ g, g < 2 ^ (w / 256 % 8) ∧ off g ≤ q ∧ (q : Int) < off (g + 1)
    let c := s.captured op a
    let ret := st + c.lastEffect
    let port (p : Nat) : Row := (portRow s.portRows p).getD 0
    let test : Bool := (m.cnt.toNat + 1) % 4096 == 0
    let row (q : Nat) : List Pend := match op with
      | .mrank => [⟨st + q + 262, s.cx.prog, .accRank a.acc (row0 + q) (c.ranks port q) c.e⟩]
      | .mmac => [⟨st + q, s.cx.prog, .macRead c q ret⟩]
      | _ => match c.sums (c.exchangeA port q) q with
        | none => []
        | some r => ⟨st + q + 262, s.cx.prog, .accAdd a.acc (row0 + q) r.1 (decide (m.tile.tfmt = 7 ∨ m.tile.tfmt = 8)) ret⟩ ::
            s.fRes (ret - s.cx.prog) r.2
    let trap (c : Code) : Prop := exec i s = .next (s.trapped c 0)
    (m.busy = true → trap .matrixBusy) ∧
    (m.busy = false → m.avail m.tile.km = false → trap .shapeLost) ∧
    (m.busy = false → m.avail m.tile.km = true →
      match s.refuses op a with
      | some c => trap c
      | none => exec i s = .next ((s.withMe fun x => { x with matrix := { m with
            cnt := m.cnt + 1, free := if test then st + n + 24 else st + n } }).withCtx fun y => { y with
          pend := y.pend ++ ((List.range n).flatMap row ++ s.aRes (ret - s.cx.prog))
          ptimed := y.ptimed ++ if test then [(st + n + 24, .selftestCnt s.cd)] else [] })) ∧
    (s.refuses op a = none →
      (∀ q, q < n → op ≠ .mrank → op ≠ .mmac → (c.sums (c.exchangeA port q) q = none ↔ ¬ grouped q)) ∧
      (∀ q, q < n → grouped q → (∀ p, q < p → p < n → ¬ grouped p) → c.lastEffect = q + 262) ∧
      ((∀ q, q < n → ¬ grouped q) → c.lastEffect = 0))) ∧
  ∀ (s : State) (d : Nat) (sh : Bool) (due iss q ret : Nat) (c : MCap),
    let x := (s.chip.die d).matrix
    s.after (landOne d sh ⟨due, iss, .macRead c q ret⟩) =
      match c.sums (fun _ _ => c.downA (x.intNow c.asrc) (x.accRow c.asrc (c.r0 + q))) q with
      | none => s
      | some r => s.after (modStream d sh fun y => { y with pend := y.pend ++
          ⟨due + 262, iss, .accAdd c.acc (c.row0 + q) r.1 (decide (c.tile.tfmt = 7 ∨ c.tile.tfmt = 8)) ret⟩ ::
            (if r.2 = 0 then [] else [⟨ret + 1, iss, .flags r.2⟩]) })

/-- R71, R74, R194, R195, R201, R204, R210. -/
def Obligations.ProductSums : Prop :=
  ∀ (c : MCap) (src : Nat → Row) (a : Nat),
    let elem (r : AccRow) (j : Nat) : BitVec 128 := r.extractLsb' (128 * j) 128
    let scores (i : Nat) : Nat := keyBits c.fa (fld (aRowBits src a) (fmtWidth c.fa * i) (fmtWidth c.fa))
    (c.op = .mma → c.fa = 7 → c.tile.tfmt = 7 → c.sca = false →
      let x (e : Nat) : Int := ((src (16 * a + e / 64)).extractLsb' (8 * (e % 64)) 8).toInt
      let y (k j t : Nat) : Int := ((c.tile.row k).extractLsb' (32 * j + 8 * t) 8).toInt
      ∃ r, c.sums (c.exchangeA src a) a = some (r, 0) ∧ ∀ j, j < 256 → elem r j = BitVec.ofInt 128
        (((List.range 256).filter fun k => bitOf c.tile.km (k / 64)).map fun k =>
          ((List.range 4).map fun t => x (4 * k + t) * y k j t).sum).sum) ∧
    (c.e ≤ 256 → ∀ j, j < c.e → elem (c.ranks src a) j = BitVec.ofNat 128
      ((List.range c.e).countP fun i => scores j < scores i || (decide (i < j) && scores i == scores j)))

/-- R67, R69-R71, R199, R204, R205, R208. -/
def Obligations.AccumulatorLandings : Prop :=
  ∀ (s : State) (d : Nat) (sh int : Bool) (due iss a m e ret : Nat) (row : AccRow), d < s.chip.dies.length → m < 256 →
    let elem (r : AccRow) (j : Nat) : BitVec 128 := r.extractLsb' (128 * j) 128
    let acc (u : State) (b n : Nat) : AccRow := (u.chip.die d).matrix.accRow b n
    let top : Int := 2 ^ 127 - 1
    let sum (j : Nat) : Int := (elem (acc s a m) j).toInt + (elem row j).toInt
    let lands (l : Land) (p : State → Prop) : Prop :=
      let t := s.after (landOne d sh ⟨due, iss, l⟩)
      t.mem = s.mem ∧ (∀ k, k ≠ d → t.chip.die k = s.chip.die k) ∧ p t
    let others (t : State) : Prop := ∀ b n, n < 256 → (b ≠ a ∨ n ≠ m) → acc t b n = acc s b n
    lands (.accAdd a m row true ret) (fun t => others t ∧
      (∀ j, j < 256 → elem (acc t a m) j = BitVec.ofInt 128 (max (-top) (min top (sum j)))) ∧
      (t.stream d sh).pend = (s.stream d sh).pend ++
        if ∃ j ∈ List.range 256, top < sum j ∨ sum j < -top then [⟨ret + 1, iss, .flags fACCSAT⟩] else []) ∧
    lands (.accAdd a m row false ret) (fun t => others t ∧
      ∀ j, j < 256 → elem (acc t a m) j = BitVec.ofNat 128
        (treeStep (elem (acc s a m) j).toNat (decodeNum cBin128 (elem row j).toNat))) ∧
    lands (.accRank a m row e) (fun t => others t ∧
      ∀ j, j < 256 → elem (acc t a m) j = if j < e then elem row j else elem (acc s a m) j) ∧
    lands (.accZero a m) (fun t => others t ∧ acc t a m = 0) ∧
    lands (.accClear a int) (fun t => (∀ n, n < 256 → acc t a n = 0 ∧ ∀ b, b ≠ a → acc t b n = acc s b n) ∧
      ∀ b, b < 4 → (t.chip.die d).matrix.intNow b = if b = a then int else (s.chip.die d).matrix.intNow b)

/-- R82, R206-R208, R217. -/
def Obligations.Epilogues : Prop :=
  ∀ (s : State) (a : MArgs), s.cd < s.chip.dies.length →
    let m := s.me.matrix
    let b := SMap.get 0 m.ep a.epb
    let n := a.len + 1
    let row0 := (s.cx.rs a.ss).toNat % 256
    let out (r : Nat) := epDrive s.me.fpctl b (m.intNow a.acc) (m.accRow a.acc (row0 + r)) (s.cx.rv (epF b 16 11)) (s.cx.rv a.vs) r
    let flags : Flags := ((List.range n).map fun r => (out r).2).foldl (· ||| ·) 0
    let both : List Instr := [.mepi a, .mdrain a]
    let stored (g : Bundle) : List WPend := (List.range n).flatMap fun r => (out r).1.flatMap fun p =>
      match routeOut g.xw (s.routeEntry g.xw) p.1 with
      | none => []
      | some bank => (s.chip.cur.names.filter fun q => q.1 = bank).map fun q => ⟨s.cx.prog + 18, s.cx.prog, bank, q.2, p.2.1, p.2.2, 2, none⟩
    let zeroed : List Pend := (List.range n).map fun r => s.flight 1 (.accZero a.acc (row0 + r))
    let done (g : Bundle) (l : List Pend) : Out := .next (s.withCtx fun y => { y with
      wpend := y.wpend ++ stored g, pend := y.pend ++ (s.fRes 18 flags ++ l ++ s.aRes 18) })
    (m.setBusy a.acc = true → ∀ i ∈ both, exec i s = .next (s.trapped .matrixBusy 0)) ∧
    (m.setBusy a.acc = false → ¬ (row0 + n ≤ 256 ∧ n * epRows b ≤ 256) → ∀ i ∈ both, exec i s = .next (s.trapped .matrixRange 0)) ∧
    (m.setBusy a.acc = false → row0 + n ≤ 256 → n * epRows b ≤ 256 → ∀ g, s.chip.cur.bundle = some g →
      exec (.mepi a) s = done g [] ∧ exec (.mdrain a) s = done g zeroed) ∧
    (let W : Nat := match epF b 0 4 with | 2 | 3 => 8 | 4 | 5 => if b.getLsbD 12 then 5 else 4 | 7 => 4 | 6 => 3 | 8 | 9 => 2 | _ => 16
      let scales : Bool := epF b 0 4 == 6 || (b.getLsbD 12 && (epF b 0 4 == 4 || epF b 0 4 == 5))
      epRows b = W ∧ ∀ r, (out r).1.length = W ∧ ∀ i, i < W → ∃ row,
        (out r).1[i]? = some (256 + W * r + i, if scales ∧ i + 1 = W then 0xFF else allBytes, row)) ∧
    (b = 0 → ∀ r, (out r).1.length = 16 ∧ ∀ i, i < 16 → ∃ row, (out r).1[i]? = some (256 + 16 * r + i, allBytes, row) ∧
      ∀ j, j < 16 → row.extractLsb' (32 * j) 32 = BitVec.ofNat 32 (roundTo 1 ⟨.rne, s.me.fpctl.srbits, false⟩
        (let e := ((m.accRow a.acc (row0 + r)).extractLsb' (128 * (16 * i + j)) 128)
         if m.intNow a.acc then Machine.Num.ofInt e.toInt else decodeNum cBin128 e.toNat) (lane (s.cx.rv a.vs) ((256 * r + 16 * i + j) % 1024)).toNat).1)

/-- R213-R217. Which sub-arrays fail is a free value (log entry 5). -/
def Obligations.MatrixTests : Prop :=
  ∀ (s : State) (a : MArgs) (d : Nat), s.cd < s.chip.dies.length → d < 12 → d < s.chip.dies.length →
    let m := s.me.matrix
    let x := s.chip.die d
    let st := max (s.cx.prog + 6) m.free
    let fail := Config.selfTestFail s.chip.free
    let new := fail &&& ~~~x.matrix.fenced
    let before := x.matrix.follow.takeWhile fun f => f.started.isSome
    let rest := x.matrix.follow.dropWhile fun f => f.started.isSome
    let isOver (f : Follow) : Bool := match f.started with
      | some t => t + (match f.cap with | some c => c.lastEffect | none => 24) ≤ s.chip.now
      | none => false
    (Completes (exec (.selftestCnt d) s) ∧ Completes (exec (.followOnStart d) s) ∧ Completes (exec (.followOnRetire d) s)) ∧
    (m.busy = true → exec (.mtest a) s = .next (s.trapped .matrixBusy 0)) ∧
    (m.busy = false → m.avail m.tile.km = false → exec (.mtest a) s = .next (s.trapped .shapeLost 0)) ∧
    (m.busy = false → m.avail m.tile.km = true → exec (.mtest a) s = .next ((s.withMe fun y => { y with
        matrix := { y.matrix with free := st + 24 } }).withChip (fun c => { c with free := c.free + 1 }) |>.flying
      (s.flight (st + 24 - s.cx.prog) (.mtest (s.physReg a.ss) fail) :: s.aRes (st + 24 - s.cx.prog)))) ∧
    (new = 0 → exec (.selftestCnt d) s = .next ((s.withDie d fun y => { y with
      matrix := { y.matrix with lastPass := y.matrix.cnt } }).withChip fun c => { c with free := c.free + 1 })) ∧
    (new ≠ 0 → ∃ t q, exec (.selftestCnt d) s = .next t ∧ t.mem = s.mem ∧ (t.chip.die d).matrix.fenced = x.matrix.fenced ||| new ∧
      (t.chip.die d).trap = some q ∧ q.code = .uncorrectable ∧ q.cls = 'F' ∧ (s.chip.now, Instr.holdTimeout d) ∈ t.chip.events) ∧
    (followReady x s.chip.now = false → exec (.followOnStart d) s = .next s) ∧
    (followReady x s.chip.now = true → ∃ f g t l, rest = f :: l ∧ exec (.followOnStart d) s = .next t ∧ t.mem = s.mem ∧
      (t.chip.die d).matrix.follow = before ++ g :: l ∧ g.started = some s.chip.now ∧ g.cap = f.cap ∧ g.node = f.node ∧
      (∀ c, f.cap = some c → (s.chip.now + c.lastEffect, Instr.followOnRetire d) ∈ t.chip.events) ∧
      (f.cap = none → (s.chip.now + 24, Instr.followOnRetire d) ∈ t.chip.events ∧ (s.chip.now + 24, Instr.selftestCnt d) ∈ t.chip.events)) ∧
    ((∀ f ∈ x.matrix.follow, isOver f = false) → exec (.followOnRetire d) s = .next s) ∧
    (∀ p f l, x.matrix.follow = p ++ f :: l → (∀ g ∈ p, isOver g = false) → isOver f = true →
      ∃ t, exec (.followOnRetire d) s = .next t ∧ t.mem = s.mem ∧
        (let y := t.chip.die d
          let queued (g : Follow) : Bool := g.cap.isNone && g.started.isNone
          let tests := ((p ++ l).filter queued).length
          let free := max x.matrix.free (progNow x s.chip.turn)
          if (p ++ l).any (·.cap.isSome) ∨ tests = 0 then
            y.matrix.follow = p ++ l ∧ y.matrix.free = x.matrix.free ∧ y.main.ptimed = x.main.ptimed
          else y.matrix.follow = (p ++ l).filter (fun g => !queued g) ∧ y.matrix.free = free + 24 * tests ∧
            y.main.ptimed = x.main.ptimed ++ (List.range tests).map fun k => (free + 24 * (k + 1), .selftestCnt d)) ∧
        ∀ n, f.node = some n → (s.chip.now, Instr.nodeRetire d n) ∈ t.chip.events)

/-! ### The sort array -/

/-- R222-R225, R228, R229. That a start acts on KSTATE in the issue cycle is the model's reading (log entry 17). -/
def Obligations.SortOps : Prop :=
  ∀ (s : State) (a : KArgs), s.cd < s.chip.dies.length →
    let m := s.me.mace
    let k := kUnpack m.kview
    let nr := 2 ^ (a.lr + 1)
    let nc := 2 ^ (a.lc + 1)
    let word := (s.cx.rs a.ss).toNat
    let shape : Prop := k.lr = a.lr ∧ k.lc = a.lc ∧ k.kf = a.kf
    let steps (op : Nat) : Nat := match op with
      | 4 => 2 * nr + 2 * nc
      | 5 => nc
      | _ => (a.lr + 2) * nc + (a.lr + 1) * nr
    let named : List (Instr × Nat × Nat) := [(.ksort a, 2, 0), (.kmerge a, 4, 0), (.ktopk a, 5, word % 512)]
    let inRange (op : Nat) : Prop := op = 5 → 1 ≤ word % 512 ∧ word % 512 ≤ nc
    let runs (o : Out) (st last : KState) (n : Nat) : Prop := ∃ t, o = .next t ∧ t.mem = s.mem ∧
      (∀ d, d ≠ s.cd → t.chip.die d = s.chip.die d) ∧
      t.cx = { s.cx with pend := s.cx.pend ++ s.flight 0 (.kstate (kPack st)) :: if n = 0 then s.aRes 1 else [] } ∧
      t.me.mace = { m with
        free := max m.free (s.cx.prog + n + 1), kview := kPack last,
        jobs := if n = 0 then m.jobs else m.jobs ++ [⟨s.cx.prog + 1, n, s.cx.prog + n + 1, s.arvOf, false⟩] }
    (s.cx.prog + 1 < m.free → ∀ i ∈ [Instr.ksort a, .kmerge a, .ktopk a, .kstep a], exec i s = .next (s.trapped .sortBusy 0)) ∧
    (m.free ≤ s.cx.prog + 1 →
      (¬ inRange 5 → exec (.ktopk a) s = .next (s.trapped .sortRange 0)) ∧
      (¬ shape → exec (.kstep a) s = .next (s.trapped .sortShape 0) ∧
        ∀ p ∈ named, inRange p.2.1 → exec p.1 s = .next (s.trapped .sortShape 0)) ∧
      (shape → k.run = true → k.dir ≠ a.dir → exec (.kstep a) s = .next (s.trapped .sortState 0)) ∧
      (shape → k.run = true → ∀ p ∈ named, inRange p.2.1 → k.dir ≠ a.dir ∨ k.op ≠ p.2.1 → exec p.1 s = .next (s.trapped .sortState 0)) ∧
      (shape → k.run = false →
        (∀ p ∈ named, inRange p.2.1 →
          let st : KState := { k with run := true, op := p.2.1, dir := a.dir, phase := 0, step := 0, topk := p.2.2 }
          runs (exec p.1 s) st { st with run := false } (steps p.2.1)) ∧
        (let st : KState := { k with run := true, op := 2, dir := a.dir, phase := 0, step := 0, topk := 0 }
         let n := min (word % 65536) (steps 2)
         runs (exec (.kstep a) s) st (st.after n) n)) ∧
      (shape → k.run = true → k.dir = a.dir →
        (∀ p ∈ named, inRange p.2.1 → k.op = p.2.1 → runs (exec p.1 s) k (k.after k.left) k.left) ∧
        (let n := min (word % 65536) k.left
         runs (exec (.kstep a) s) k (k.after n) n)))

/-- R219, R221, R223, R228. -/
def Obligations.SortSteps : Prop :=
  ∀ (m : Mace), (m.cells.map (·.1)).Pairwise (· < ·) → (∀ p ∈ m.cells, p.1 < 65536) →
    let k := kUnpack m.kstate
    let t := m.step
    let cell (u : Mace) (r c : Nat) : Cell := SMap.get 0 u.cells (256 * r + c)
    let key (x : Cell) : Nat := keyBits k.kf (x.toNat % 2 ^ 32)
    let before (x y : Cell) : Prop := (if k.dir then key y < key x else key x < key y) ∨
      (key x = key y ∧ x.toNat / 2 ^ 64 % 2 ^ 16 < y.toNat / 2 ^ 64 % 2 ^ 16)
    let tile (u : Mace) : List Cell := (List.range k.nr).flatMap fun r => (List.range k.nc).map fun c => cell u r c
    let row := (k.phases.getD k.phase (true, 0)).1
    let len := (k.phases.getD k.phase (true, 0)).2
    let rev (r : Nat) : Prop := k.op ≠ 5 ∧ r % 2 = 1
    let ordered (swap : Prop) (x y x' y' : Cell) : Prop := (swap → x' = y ∧ y' = x) ∧ (¬ swap → x' = x ∧ y' = y)
    (t.cells.map (·.1)).Pairwise (· < ·) ∧ (∀ p ∈ t.cells, p.1 < 65536) ∧ (tile t).Perm (tile m) ∧ t.jobs = m.jobs ∧
    (∀ r c, c < 256 → ¬ (r < k.nr ∧ c < k.nc) → cell t r c = cell m r c) ∧
    (row = true → ∀ r, r < k.nr →
      (∀ c, c % 2 = k.step % 2 → c + 1 < k.nc → ordered
        ((¬ rev r ∧ before (cell m r (c + 1)) (cell m r c)) ∨ (rev r ∧ before (cell m r c) (cell m r (c + 1))))
        (cell m r c) (cell m r (c + 1)) (cell t r c) (cell t r (c + 1))) ∧
      (k.step % 2 = 1 → cell t r 0 = cell m r 0 ∧ cell t r (k.nc - 1) = cell m r (k.nc - 1))) ∧
    (row = false → ∀ c, c < k.nc →
      (∀ r, r % 2 = k.step % 2 → r + 1 < k.nr → ordered (before (cell m (r + 1) c) (cell m r c))
        (cell m r c) (cell m (r + 1) c) (cell t r c) (cell t (r + 1) c)) ∧
      (k.step % 2 = 1 → cell t 0 c = cell m 0 c ∧ cell t (k.nr - 1) c = cell m (k.nr - 1) c)) ∧
    (k.step < len → k.phase < k.phases.length → kUnpack t.kstate =
      if k.step + 1 < len then { k with step := k.step + 1 }
      else if k.phase + 1 < k.phases.length then { k with phase := k.phase + 1, step := 0 }
      else { k with run := false, phase := 0, step := 0 })

/-- R220, R222, R224, R226, R227, R230. -/
def Obligations.SortMoves : Prop :=
  ∀ (s : State) (a : KArgs), s.cd < s.chip.dies.length →
    let m := s.me.mace
    let k := kUnpack m.kview
    let w := s.cx.rs a.ss
    let b := w.toNat % 65536
    let size := 2 ^ (a.lr + 1) * 2 ^ (a.lc + 1)
    let xw := (s.chip.cur.bundle.map (·.xw)).getD 0
    let trap (i : Instr) (c : Code) : Prop := exec i s = .next (s.trapped c 0)
    let takes (i : Instr) (off : Nat) (next : KState) (l : List Pend) : Prop := exec i s = .next ((s.withMe fun x => { x with
      mace := { x.mace with free := max m.free (s.cx.prog + off + 1), kview := kPack next } }).flying l)
    let same : Prop := a.lr = k.lr ∧ a.lc = k.lc ∧ a.kf = k.kf
    let cell (u : Mace) (r c : Nat) : Cell := SMap.get 0 u.cells (256 * r + c)
    (s.cx.prog + 7 < m.free → trap (.kload a) .sortBusy) ∧
    (m.free ≤ s.cx.prog + 7 →
      (¬ (b % 8 = 0 ∧ b < size) → trap (.kload a) .sortRange) ∧
      (b % 8 = 0 → b < size → b ≠ 0 → ¬ same → trap (.kload a) .sortShape) ∧
      (b % 8 = 0 → b < size → b = 0 ∨ same → takes (.kload a) 7 { k with lr := a.lr, lc := a.lc, kf := a.kf, run := false, topk := 0 }
        (s.flight 7 (.kload b a.lr a.lc a.kf s.portRows) :: s.aRes 7))) ∧
    (s.cx.prog + 1 < m.free → trap (.kstore a) .sortBusy ∧ trap (.kstateWr a) .sortBusy) ∧
    (m.free ≤ s.cx.prog + 1 →
      (¬ (b % 8 = 0 ∧ b < k.nr * k.nc) → trap (.kstore a) .sortRange) ∧
      (b % 8 = 0 → b < k.nr * k.nc → a.rmj = true → k.topk ≠ 0 → trap (.kstore a) .sortState) ∧
      (b % 8 = 0 → b < k.nr * k.nc → a.rmj = false ∨ k.topk = 0 → takes (.kstore a) 1 k
        (s.flight 1 (.kstore b a.rmj a.dir xw (s.routeEntry xw) s.chip.cur.names) :: s.aRes 8)) ∧
      (kstateOk w = false → trap (.kstateWr a) .sortState) ∧
      (kstateOk w = true → takes (.kstateWr a) 1 (kUnpack w) (s.flight 1 (.kstate w) :: s.aRes 1))) ∧
    exec (.kstateRd a) s = .next (s.flying (s.sRes 1 a.ss m.kstate ++ s.aRes 1)) ∧
    (a.lc < 8 → ∀ rows : List (Nat × Row), (rows.map (·.1)).Nodup →
      let nc := 2 ^ (a.lc + 1)
      let u := m.load b a.lr a.lc a.kf rows
      (∀ q, q < size → cell u (q / nc) (q % nc) =
        if q < b ∨ b + 1024 ≤ q then cell m (q / nc) (q % nc)
        else match (rows.find? fun p => p.1 = 768 + (q - b) / 8) with
          | none => cell m (q / nc) (q % nc)
          | some p => BitVec.ofNat 80 ((p.2.extractLsb' (64 * ((q - b) % 8)) 64).toNat + q * 2 ^ 64)) ∧
      (∀ r c, c < 256 → ¬ (r < 2 ^ (a.lr + 1) ∧ c < nc) → cell u r c = cell m r c))

/-! ### The copy engine -/

/-- R88, R99, R134, R231-R235, R240-R246, R303. -/
def Obligations.CopyIssue : Prop :=
  ∀ (s : State) (op : NodeOp) (a : CArgs), s.cd < s.chip.dies.length →
    let i : Instr := match op with
      | .copy => .ccopy a | .copyf => .ccopyf a | .fill => .cfill a | .gather => .cgather a | .scatter => .cscatter a
      | .dispatch => .cdispatch a | .combine => .ccombine a | .migrate => .migrate a
    let x := s.me
    let tl := s.cx.rtl
    let w := (s.cx.rs a.ss).toNat
    let xt := w / 2 ^ 16 % 512
    let epd := w / 2 ^ 41 % 256 + 1
    let groups (first : Nat) : List Nat := (List.range ((w / 2 ^ 30 % 256 + 1 + epd - 1) / epd)).map (first + ·)
    let names : List Nat := match op with
      | .copy | .copyf => [a.tla, a.tlb]
      | .fill | .migrate => [a.tla]
      | .gather | .scatter => [a.tla, a.tlb, xt]
      | .dispatch => a.tlb :: xt :: (xt + 1) :: groups a.tla
      | .combine => a.tla :: xt :: (xt + 1) :: (xt + 2) :: groups a.tlb
    let recs : List Rec := match op with
      | .copy | .copyf => [tl a.tla, tl a.tlb]
      | .fill | .migrate => [tl a.tla, 0]
      | .gather | .scatter => [tl a.tla, tl a.tlb, tl xt]
      | .dispatch => [tl a.tla, tl a.tlb, tl xt, tl (xt + 1), 0] ++ (groups a.tla).map tl
      | .combine => [tl a.tla, tl a.tlb, tl xt, tl (xt + 1), tl (xt + 2)] ++ (groups a.tlb).map tl
    let plain : List Nat := [1, 2, 3, 4, 5, 7, 8, 10]
    let moves (m n : Nat) : Prop := Rec.space (tl m) = 2 ∨ Rec.space (tl n) = 2 ∨ Rec.fmt (tl m) = Rec.fmt (tl n) ∨
      (Rec.fmt (tl m) ∈ plain ∧ Rec.fmt (tl n) ∈ plain)
    let typed (n f : Nat) : Prop := Rec.space (tl n) = 2 ∨ Rec.fmt (tl n) = f
    let follow : Except Code (MOp × MArgs) := match decodeFollow a.follow with
      | .ok (.mma b) => .ok (.mma, b)
      | .ok (.mmag b) => .ok (.mmag, b)
      | .ok (.mmac b) => .ok (.mmac, b)
      | .ok (.mrank b) => .ok (.mrank, b)
      | .ok _ => .error .illegalOp
      | .error c => .error c
    let first : List (Prop × Code) := match op, follow with
      | .copyf, .error c => [(False, c)]
      | .copyf, .ok f => (x.matrix.avail x.matrix.tile.km = true, .shapeLost) :: match s.refuses f.1 f.2 with
        | some c => [(False, c)]
        | none => []
      | _, _ => []
    let own : List (Prop × Code) := match op with
      | .copy => [(moves a.tla a.tlb, .copyFormat)]
      | .copyf => [(moves a.tla a.tlb, .copyFormat), (Rec.space (tl a.tla) = 0, .wrongSpace)]
      | .fill => []
      | .gather => [(typed xt 10, .copyFormat), (Rec.rank (tl a.tlb) ≤ Rec.rank (tl a.tla), .copyShape), (moves a.tla a.tlb, .copyFormat)]
      | .scatter => [(typed xt 10, .copyFormat), (Rec.rank (tl a.tla) ≤ Rec.rank (tl a.tlb), .copyShape), (moves a.tla a.tlb, .copyFormat)]
      | .dispatch => [(typed xt 10 ∧ typed (xt + 1) 10, .copyFormat),
          (∀ g ∈ groups a.tla, Rec.rank (tl g) = Rec.rank (tl a.tlb) + 1, .copyShape), (∀ g ∈ groups a.tla, moves g a.tlb, .copyFormat)]
      | .combine => [(typed xt 10 ∧ typed (xt + 1) 10 ∧ typed (xt + 2) 1 ∧
          ∀ g ∈ a.tla :: groups a.tlb, Rec.space (tl g) = 2 ∨ Rec.fmt (tl g) ∈ plain, .copyFormat)]
      | .migrate => [(Rec.space (tl a.tla) = 2, .wrongSpace)]
    let checks := own ++ [(op = .migrate ∨ ∀ d, d < (recs.map Rec.rank).foldl Nat.max 0 → 0 ≤ coordX (s.cx.rc a.cw) d, .copyRange),
      (w % 65536 = 0 ∨ x.entries.length < 256, .landingFull)]
    let present (n : Nat) : Prop := n ≤ 511 ∧ Rec.rank (tl n) ≠ 0
    let permitted : Prop := (op ∉ [.copy, .fill, .migrate] → s.cd < 8) ∧ (op = .migrate → s.sysMode = true)
    let limit := if s.cd < 8 then 256 else 64
    let live := (x.copy.nodes.filter fun n => n.state ≠ .retired).length
    let id := x.copy.next
    let hist := (some id :: x.copy.hist).take 15
    (op ∉ [.copy, .fill, .migrate] → 8 ≤ s.cd → exec i s = .next (s.trapped .illegalOp 0)) ∧
    (op = .migrate → s.sysMode = false → exec i s = .next (s.trapped .privilegedOp 0)) ∧
    (permitted → ∀ pre c post, first = pre ++ c :: post → (∀ k ∈ pre, k.1) → ¬ c.1 → exec i s = .next (s.trapped c.2 0)) ∧
    (permitted → (∀ c ∈ first, c.1) → ∀ pre n post, names = pre ++ n :: post → (∀ k ∈ pre, present k) →
      (511 < n → exec i s = .next (s.trapped .copyRange 0)) ∧
      (n ≤ 511 → Rec.rank (tl n) = 0 → ∃ v, exec i s = .next (s.trapped .layoutReserved v))) ∧
    (permitted → (∀ c ∈ first, c.1) → (∀ n ∈ names, present n) →
      (∀ pre c post, checks = pre ++ c :: post → (∀ k ∈ pre, k.1) → ¬ c.1 → exec i s = .next (s.trapped c.2 0)) ∧
      ((∀ c ∈ checks, c.1) → ∃ n : Node,
        n.id = id ∧ n.op = op ∧ n.args = a ∧ n.state = .waiting ∧ n.recs = recs ∧
        n.coords = [s.cx.rc a.ca, s.cx.rc a.cb, s.cx.rc a.cw, s.cx.rc (w / 2 ^ 25 % 32)] ∧ n.fp = x.fpctl ∧
        n.word0 = s.cx.rs a.ss ∧ n.word1 = s.cx.rs (a.ss + 1) ∧ n.arv = s.arvOf ∧ n.site = x.site s.cx .c ∧ n.sh = x.inShadow ∧ n.bundle = s.cx.pc ∧ n.prog = s.cx.prog ∧
        n.launchAt = 0 ∧ n.fault = none ∧
        (n.after, n.afterNodes, n.afterCyc) = x.fenceOver (if op = .gather then 5 else 4) x.inShadow true ∧
        (∀ k, k ∈ n.preds ↔ (∃ p, (p = a.p1 ∨ p = a.p2) ∧ 1 ≤ p ∧ x.copy.hist[p - 1]? = some (some k)) ∧ x.alive k = true) ∧
        exec i s =
          let u := (if w % 65536 = 0 then s else s.named (w % 65536) (.node id)).withMe fun y => { y with
            copy := { y.copy with
              next := (id + 1) % 65536, hist, wrapped := y.copy.wrapped || id == 65535
              nodes := (if live < limit then y.copy.nodes ++ [n] else y.copy.nodes).filter fun m =>
                m.state ≠ .retired || hist.contains (some m.id)
              waiting := if live < limit then y.copy.waiting else y.copy.waiting ++ [n] } }
          let v := if live < limit then u else u.holding .window
          match op, follow with
          | .copyf, .ok (f, b) =>
            .next (v.withMe fun y => { y with matrix := { y.matrix with
              cnt := y.matrix.cnt + 1
              follow := y.matrix.follow ++ ⟨some id, some (s.captured f b), [], false, none, [], 0, 0⟩ ::
                if (y.matrix.cnt.toNat + 1) % 4096 = 0 then [⟨none, none, [], true, none, [], 0, 0⟩] else [] } })
          | _, _ => .next v))

/-- R44, R134, R216, R231, R232, R234-R238, R240, R241, R245, R247, R248, R303, R343. What a retirement leaves for the end of the
package cycle is the model's reading (log entry 111), as are a node's fault queued with its record at once (log entry 40) and what
fills the places at a Clove (log entry 150). -/
def Obligations.CopyNodes : Prop :=
  (∀ (s : State) (a : CArgs),
    let x := s.me
    let live := x.copy.nodes.filter fun n => n.state ≠ .retired
    let back (p : Nat) : Option Nat := if p = 0 then none else (x.copy.hist[p - 1]?).join
    let hist := (none :: x.copy.hist).take 15
    let u := s.withMe fun y => { y with copy := { y.copy with
      hist, nodes := y.copy.nodes.filter fun m => m.state ≠ .retired || hist.contains (some m.id) } }
    (∃ ids, exec (.cwait a) s = .next ((if ids = [] then u else u.holding (.nodes ids)).flying (s.aRes 1)) ∧
      ∀ k, k ∈ ids ↔ if a.p1 = 0 ∧ a.p2 = 0 then ∃ n ∈ live, n.id = k
        else (back a.p1 = some k ∨ back a.p2 = some k) ∧ x.alive k = true) ∧
    (∃ v : Word, exec (.cstatus a) s = .next (u.flying (s.sRes 1 a.ss v ++ s.aRes 1)) ∧
      (a.p1 = 0 → fld v.toNat 0 9 = live.length % 512 ∧ fld v.toNat 14 2 = 0 ∧ fld v.toNat 16 16 = x.copy.next % 65536 ∧
        fld v.toNat 32 32 = 0 ∧
        fld v.toNat 9 5 = (live.filter fun n => n.state = .launched ∧ n.op ≠ .migrate).length % 32) ∧
      (a.p1 ≠ 0 → back a.p1 = none → v = 1) ∧
      (∀ n k, a.p1 ≠ 0 → back a.p1 = some k → (x.copy.nodes.find? fun m => m.id == k) = some n →
        (v.getLsbD 0 = true ↔ n.state = .retired) ∧ (v.getLsbD 1 = true ↔ n.state ≠ .waiting) ∧
        fld v.toNat 2 2 = (n.preds.filter fun p => x.alive p).length % 4 ∧
        (v.getLsbD 4 = true ↔ n.state = .retired ∧ n.fault ≠ none) ∧ fld v.toNat 5 11 = 0 ∧ fld v.toNat 16 16 = n.id % 65536 ∧
        fld v.toNat 32 32 = (n.writes.takeWhile fun w => w.done).length % 2 ^ 32))) ∧
  (∀ (s : State) (d id : Nat), d < 12 → d < s.chip.dies.length →
    let x := s.chip.die d
    let now := s.chip.now
    let changed (u : State) (m : Node) : State := u.withDie d fun y => { y with copy := { y.copy with
      nodes := y.copy.nodes.map fun n => if n.id = id ∧ n.state ≠ .retired then m else n } }
    (Completes (exec (.nodeLaunch d id) s) ∧ Completes (exec (.nodeRetire d id) s) ∧ Completes (exec (.copyRowArrival id) s)) ∧
    (x.node id = none → exec (.nodeLaunch d id) s = .next s ∧ exec (.nodeRetire d id) s = .next s) ∧
    (∀ n, x.node id = some n → (∀ m ∈ x.copy.nodes, m.id = id → m.state ≠ .retired → m = n) →
      (n.state = .launched → exec (.nodeLaunch d id) s = .next s) ∧
      (n.state = .waiting → n.op ≠ .migrate → (∃ k, k < n.rank ∧ (coordX (n.coord 2) k).toNat = 0) →
        exec (.nodeLaunch d id) s = .next ((changed s { n with state := .launched, launchAt := now, clove := none }).awaiting now (.nodeRetire d id))) ∧
      (n.state = .waiting → n.op ≠ .migrate → (¬ ∃ k, k < n.rank ∧ (coordX (n.coord 2) k).toNat = 0) →
        (n.fault = none → (∃ l ∈ n.named s.chip d, l.isBad = true) → exec (.nodeLaunch d id) s =
          .next ((changed s { n with state := .launched, launchAt := now, clove := none, fault := some .wallRange }).awaiting now (.nodeRetire d id))) ∧
        ((∀ l ∈ n.named s.chip d, l.isBad = false) →
        ∃ t m, exec (.nodeLaunch d id) s = .next t ∧ t.mem = s.mem ∧ (t.chip.die d).node id = some m ∧ m.state = .launched ∧
          m.launchAt = now ∧
          (∀ r ∈ n.recs, Rec.rank r ≠ 0 → Rec.space r = 2 →
            ∃ a ∈ t.whats false, a.kind = .nodeRead ∧ a.fn = 1 ∧ a.target = .virt (Rec.base r) 0 ∧ a.die = d) ∧
          ((n.op = .copy ∨ n.op = .copyf) → n.stage = 0 → n.fault = none → n.reads = [] → n.recs.length = 2 →
            (∀ r ∈ n.recs, Rec.rank r ≠ 0 ∧ Rec.space r ≠ 2) →
            let ls := idxVecs (n.ws n.rank)
            let dst := n.loc s.chip d 0 0
            let src := n.loc s.chip d 1 1
            if ∃ l ∈ ls, (match dst l with | .at _ _ f => !fmtMoves (src l).fmt f | _ => false) = true then
              m.fault = some .copyFormat ∧ (now, Instr.nodeRetire d id) ∈ t.chip.events
            else m.stage = 2 ∧ (∀ w ∈ m.writes, w.done = false) ∧
              ∀ pre l post p k f, ls = pre ++ l :: post → dst l = .at p k f → (∀ q ∈ post, ∀ g, dst q ≠ .at p k g) →
                ∃ w ∈ m.writes, w.dst = p ∧ (match src l with
                  | .at q j g => ∃ r, (w.elems.find? fun e => e.1 = k) = some (k, .one (.mem r g j)) ∧ m.reads[r]?.map (·.src) = some q
                  | .fill g b => (w.elems.find? fun e => e.1 = k) = some (k, .one (.bits g b))
                  | .bad => False)))) ∧
      (n.state = .waiting → n.op = .migrate → offsetOf (n.rec' 0) (coordX (n.coord 0)) = none →
        exec (.nodeLaunch d id) s =
          .next ((changed s { n with state := .launched, launchAt := now, clove := s.cloveOf d n }).awaiting now (.nodeRetire d id))) ∧
      (n.state = .waiting → n.op = .migrate → offsetOf (n.rec' 0) (coordX (n.coord 0)) ≠ none →
        ∃ t m, exec (.nodeLaunch d id) s = .next t ∧ t.mem = s.mem ∧ (t.chip.die d).node id = some m ∧
          m.clove = s.cloveOf d n ∧ m.launchAt = now ∧
          m.state = (if s.chip.cloveRoom (s.cloveOf d n) = true then .launched else .waiting)) ∧
      (n.fault = none → (∃ f ∈ x.matrix.follow, f.node = some id) →
        exec (.nodeRetire d id) s = .next (s.withDie d fun y => { y with matrix := { y.matrix with
          follow := y.matrix.follow.map fun f => if f.node = some id ∧ f.ready = false then
            { f with ready := true
                     rows := n.writes.filterMap fun w => match w.dst with | .wall _ b r => some (b, r) | _ => none }
            else f } })) ∧
      (n.op ≠ .dispatch → (n.fault ≠ none ∨ ∀ f ∈ x.matrix.follow, f.node ≠ some id) →
        let v := (changed s { n with state := .retired, counts := [] }).withDie d fun y =>
          { y with
            copy := { y.copy with nodes := y.copy.nodes ++ y.copy.waiting.take 1, waiting := y.copy.waiting.drop 1 }
            entries := y.entries.map fun e => if e.what = .node id then { e with arrived := true } else e
            nodeFlags := y.nodeFlags ||| n.flags
            nodeArvs := y.nodeArvs ++ n.arv.toList
            matrix := { y.matrix with follow := y.matrix.follow.filter fun f => f.node ≠ some id } }
        let u := v.after (testsPull d)
        ((n.fault = none ∨ n.fault = some .migrateAbort) → exec (.nodeRetire d id) s = .next u) ∧
        (∀ code, n.fault = some code → code ≠ .migrateAbort → ∃ t q, exec (.nodeRetire d id) s = .next t ∧ t.mem = s.mem ∧
          (t.chip.die d).copy = (u.chip.die d).copy ∧
          (if code = .uncorrectable then (t.chip.die d).trap = some q ∧ q.cls = 'F'
           else q.cls = 'N' ∧ q.slot = .c ∧ q.row3 = nodeRow3 n ∧
             (t.chip.die d).trap = x.trap ∧ (t.chip.die d).trapQ = x.trapQ ++ [q]) ∧ q.code = code)) ∧
      (n.op = .dispatch → n.fault = none → (∀ f ∈ x.matrix.follow, f.node ≠ some id) →
        (∀ p ∈ x.main.pend ++ x.shadow.pend, ∀ q v, p.land ≠ .push q v) → (∀ m ∈ x.copy.waiting, m.id ≠ id) →
        let q := n.args.aux % 4
        let room := 64 - (SMap.get [] x.queues q).length
        ∃ t, exec (.nodeRetire d id) s = .next t ∧ t.mem = s.mem ∧
          SMap.get [] (t.chip.die d).queues q = SMap.get [] x.queues q ++ (n.counts.take room).map (BitVec.ofNat 32) ∧
          (n.counts.length ≤ room → (t.chip.die d).node id = none) ∧
          (room < n.counts.length → (now + 1, Instr.nodeRetire d id) ∈ t.chip.events ∧
            (t.chip.die d).node id = some { n with counts := n.counts.drop room })))) ∧
  (∀ (s : State) (id : Nat),
    (s.chip.acc id = none → exec (.copyRowArrival id) s = .next s) ∧
    (∀ a node k n r, s.chip.acc id = some a → a.node = some (node, k) → a.fn ≠ 1 → a.fn ≠ 2 → a.die < s.chip.dies.length →
      (s.chip.die a.die).node node = some n → (∀ m ∈ (s.chip.die a.die).copy.nodes, m.id = node → m.state ≠ .retired → m = n) →
      n.stage = 2 → n.reads[k]? = some r →
      exec (.copyRowArrival id) s = .next ((s.withChip fun c => { c with accs := c.accs.filter fun b => b.id ≠ id }).withDie a.die
        fun y => { y with copy := { y.copy with nodes := y.copy.nodes.map fun m => if m.id = node ∧ m.state ≠ .retired then
          { n with reads := n.reads.set k { r with data := some a.data } } else m } })) ∧
    (∀ a node k n, s.chip.acc id = some a → a.node = some (node, k) → a.fn = 1 → a.die < s.chip.dies.length →
      (s.chip.die a.die).node node = some n →
      ∃ t m, exec (.copyRowArrival id) s = .next t ∧ t.mem = s.mem ∧ (t.chip.die a.die).node node = some m ∧
        ∀ b o, a.target = .virt b o → SMap.get 0 m.fmts b = a.fmt))

/-! ### Requests of the Y slot -/

/-- R40, R41, R76, R109, R110, R249, R250, R253, R254, R257, R301, R302, R397. A load beyond the extents of a space-2 record goes to BASE's
page, whose leaf gives the format of the fill row: the model's reading (log entry 44). -/
def Obligations.RemoteLoads : Prop :=
  ∀ (s : State) (a : YArgs), s.cd < s.chip.dies.length →
    let r := s.cx.rtl a.tl
    let o := offsetOf r (coordX (s.cx.rc a.c))
    let u := s.withMe fun y => { y with lastSc := some (s.chip.now / 2) }
    let sc := some (s.chip.now / 2)
    let word : LandWhat := .word (s.physReg a.sx)
    let what : LandWhat := if a.fn = 1 then .row a.sx s.cx.rotb else word
    let asks (out : Out) (v : State) (w : LandWhat) (b : Bool) (x : Acc → Acc) : Prop :=
      if 256 ≤ s.me.entries.length then out = .next (v.trapped .landingFull 0)
      else ∃ t, out = .next t ∧ t.still = (v.named a.arr w).still ∧ t.whats b = v.whats b ++
        [(x { blankAcc (v.named a.arr w).chip s.cd .ldWord .beyond with entry := some s.chip.nextId }).what b]
    let loads (i : Instr) (v : State) (w : LandWhat) (x : Acc → Acc) : Prop := match yplace s a.tl a.c with
      | .bad code d l => exec i s = .next (s.naming code d l)
      | .beyond row => asks (exec i s) v w true fun y => { x y with target := .beyond, data := row }
      | .fill base f => asks (exec i s) v w false fun y => { x y with target := .virt base 0, fill := some f }
      | .at tg n => asks (exec i s) v w true fun y => { x y with target := tg, word := n }
    let reads (y : Acc) (k : AccKind) : Acc := { y with kind := k, fn := a.fn, a := s.cx.rs a.sx, b := s.cx.rs (a.sx + 1) }
    -- where the operand lies
    (Rec.rank r = 0 → ∃ v, yplace s a.tl a.c = .bad .layoutReserved v []) ∧
    (Rec.rank r ≠ 0 → Rec.space r = 2 → yplace s a.tl a.c = match o with
      | none => .fill (Rec.base r) (Rec.fill r)
      | some e => .at (.virt (Rec.base r) e) 0) ∧
    (Rec.rank r ≠ 0 → Rec.space r ≠ 2 → match o with
      | none => yplace s a.tl a.c = .beyond (fillRow (Rec.fmt r) (Rec.fill r))
      | some e =>
        let p := wallPos r e
        let n := if Rec.fmt r = 0 then 0 else p.elem * fmtWidth (Rec.fmt r) % 512 / 64
        let scratch := 8 ≤ s.cd ∧ Rec.space r = 0
        let lo := s.me.terms.banklo
        let inside : Prop := if scratch then 0 ≤ p.row ∧ p.row < 256
          else 0 ≤ p.row ∧ p.row < 1536 ∧ lo ≤ p.bank ∧ p.bank < lo + s.me.terms.bankn
        (¬ inside → yplace s a.tl a.c = .bad .wallRange 0 [p.bank]) ∧
        (inside → scratch → yplace s a.tl a.c = .at (.scratch s.cd (p.bank % 16 * 256 + p.row.toNat)) n) ∧
        (inside → ¬ scratch →
          yplace s a.tl a.c = .at (.wall (if Rec.space r = 0 then s.cd else Rec.die r) p.bank p.row.toNat) n)) ∧
    -- loads, and atomics that return the old word
    loads (.ldrem a) s what (fun y => { y with kind := if a.fn = 1 then .ldRow else .ldWord, fn := a.fn }) ∧
    (a.arr ≠ 0 → loads (.atom a) s word fun y => reads y .atom) ∧
    (s.cd < 8 → loads (.scld a) u word fun y => { y with kind := .scld, sc }) ∧
    (s.cd < 8 → a.arr ≠ 0 → loads (.scrmw a) u word fun y => { reads y .scrmw with sc }) ∧
    (8 ≤ s.cd → ∀ i ∈ [Instr.scld a, .scst a, .scrmw a], exec i s = .next (s.trapped .illegalOp 0)) ∧
    -- placement entries and device-physical words
    (s.sysMode = false → ∀ i ∈ [Instr.plread a, .plwrite a, .mmld a, .mmst a], exec i s = .next (s.trapped .privilegedOp 0)) ∧
    (s.sysMode = true →
      (Rec.rank r ≠ 0 → Rec.space r ≠ 2 →
        ∀ i ∈ [Instr.plread a, .plwrite a, .mmld a, .mmst a], exec i s = .next (s.trapped .wrongSpace 0)) ∧
      (Rec.rank r = 0 → ∀ i ∈ [Instr.plread a, .mmld a, .mmst a], ∃ v, exec i s = .next (s.trapped .layoutReserved v)) ∧
      (Rec.rank r ≠ 0 → Rec.space r = 2 →
        asks (exec (.plread a) s) s word true (fun y => match o with
          | some e => { y with kind := .plread, target := .virt (Rec.base r) e }
          | none => { y with kind := .plread, target := .beyond, data := 0 }) ∧
        asks (exec (.mmld a) s) s what true (fun y =>
          let z := { y with kind := if a.fn = 1 then .mmldRow else .mmld, fn := a.fn }
          match o with
          | some e =>
            let b : Int := ((Rec.base r % 2 ^ 58 : Nat) : Int) + 8 * e
            let n := if b < 0 then 2 ^ 58 else b.toNat
            { z with target := .phys (Rec.base r / 2 ^ 60) (Rec.base r / 2 ^ 58 % 4) n, word := n % 64 / 8 }
          | none => { z with target := .beyond, data := 0 })))

/-- R249, R253-R257, R268, R301, R302, R320, R397. Where an operand lies is said in `RemoteLoads`. The model's readings: a store
beyond the extents of a space-2 record (log entry 44), an OSEND outside space 2 as a discarded write (log entry 47), a row that waits
outside its queue (log entry 27). -/
def Obligations.RemoteStores : Prop :=
  ∀ (s : State) (a : YArgs), s.cd < s.chip.dies.length →
    let r := s.cx.rtl a.tl
    let o := offsetOf r (coordX (s.cx.rc a.c))
    let u := s.withMe fun y => { y with lastSc := some (s.chip.now / 2) }
    let sc := some (s.chip.now / 2)
    let puts (out : Out) (v : State) (x : Acc → Acc) : Prop := ∃ t, out = .next t ∧ t.still = v.still ∧
      t.whats true = v.whats true ++ [(x (blankAcc v.chip s.cd .stWord .beyond)).what true]
    let stores (i : Instr) (v : State) (x : Acc → Acc) : Prop := match yplace s a.tl a.c with
      | .bad code d l => exec i s = .next (s.naming code d l)
      | .beyond _ => exec i s = .next v
      | .fill _ _ => ∃ t, exec i s = .next t ∧ t.still = v.still
      | .at tg n => puts (exec i s) v fun y => { x y with target := tg, word := n }
    let alters (y : Acc) (k : AccKind) : Acc := { y with kind := k, fn := a.fn, a := s.cx.rs a.sx, b := s.cx.rs (a.sx + 1) }
    let data := s.rowAt a.sx
    (∀ k, k < 8 → rowWord data k = s.cx.rs (a.sx + k)) ∧
    stores (.strem a) s (fun y => if a.fn = 1 then { y with kind := .stRow, fn := 1, data } else
      { y with kind := .stWord, a := s.cx.rs a.sx }) ∧
    stores (.red a) s (fun y => { y with kind := .red, fn := a.fn, data }) ∧
    (s.cd < 8 → stores (.scst a) u fun y => { y with kind := .scst, a := s.cx.rs a.sx, sc }) ∧
    (a.arr = 0 → stores (.atom a) s fun y => alters y .atom) ∧
    (s.cd < 8 → a.arr = 0 → stores (.scrmw a) u fun y => { alters y .scrmw with sc }) ∧
    (s.sysMode = true → (Rec.rank r ≠ 0 → Rec.space r = 2) →
      let v := (s.cx.rs a.sx).toNat
      let tier := v % 4
      let die := v / 4 % 16
      let fmt := v / 2 ^ 36 % 16
      let geom := v / 2 ^ 40 % 2
      let writable : Prop := fld v 6 2 = 0 ∧ v.testBit 41 = false ∧ v / 2 ^ 46 = 0 ∧ fmt ≤ 11 ∧
        (geom = 1 → fmt = 4 ∨ fmt = 5 ∨ fmt = 6) ∧ (fmt = 6 → geom = 1) ∧
        (tier = 0 → die < 8) ∧ (tier = 1 ∨ tier = 2 → 8 ≤ die ∧ die < 12) ∧ (tier = 0 ∨ tier = 1 → fld v 8 28 ≠ 0)
      (¬ writable → exec (.plwrite a) s = .next (s.trapped .plState 0)) ∧
      (writable → Rec.rank r = 0 → ∃ d, exec (.plwrite a) s = .next (s.trapped .layoutReserved d)) ∧
      (Rec.rank r ≠ 0 → match o with
        | none => (writable → exec (.plwrite a) s = .next s) ∧ exec (.mmst a) s = .next s
        | some e =>
          let b : Int := ((Rec.base r % 2 ^ 58 : Nat) : Int) + 8 * e
          let n := if b < 0 then 2 ^ 58 else b.toNat
          (writable → puts (exec (.plwrite a) s) s fun y =>
            { y with kind := .plwrite, target := .virt (Rec.base r) e, a := s.cx.rs a.sx }) ∧
          puts (exec (.mmst a) s) s fun y =>
            { y with kind := if a.fn = 1 then .mmstRow else .mmst, fn := a.fn, data, a := s.cx.rs a.sx, word := n % 64 / 8
                     target := .phys (Rec.base r / 2 ^ 60) (Rec.base r / 2 ^ 58 % 4) n })) ∧
    (Rec.rank r = 0 → ∃ d, exec (.osend a) s = .next (s.trapped .layoutReserved d)) ∧
    (Rec.rank r ≠ 0 → Rec.space r ≠ 2 → ∃ t, exec (.osend a) s = .next t ∧ t.still = s.still ∧
      (s.chip.now, Instr.msgRs s.chip.nextId) ∈ t.chip.events ∧
      ∃ x ∈ t.chip.accs, x.id = s.chip.nextId ∧ x.kind = .osend ∧ x.stage = .failed ∧ x.code = .wrongSpace ∧ x.data = data) ∧
    (∀ e : TcEntry, Rec.rank r ≠ 0 → Rec.space r = 2 → o = some 0 → s.cd < 8 →
      tcFind (if s.me.inShadow then s.me.tcSeq else s.me.tcFabric) (Rec.base r) = some e → e.rd = true → e.wr = true → 6 ≤ e.bits →
      let pa := e.pa + Rec.base r % 2 ^ e.bits
      let pkg := pa / 2 ^ 56
      let va := Rec.base r / 64 * 64
      let row := e.pa + va % 2 ^ e.bits
      let q := SMap.get [] s.chip.oqueue pkg
      let out := SMap.get [] s.chip.owait pkg
      let put : ORow := ⟨s.chip.nextId, s.cd, s.me.launch, s.me.rgnId, if s.me.inShadow then 0 else s.cx.prog, row / 64 * 64,
        [va, Rec.base r], data, false⟩
      pkg ≠ s.chip.pkgId → pkg < s.chip.npkg → row / 2 ^ 56 = pkg → ∃ t, exec (.osend a) s = .next t ∧ t.mem = s.mem ∧
        SMap.get [] t.chip.oqueue pkg = q ++ (if 256 ≤ q.length then [] else [put]) ∧
        SMap.get [] t.chip.owait pkg = out ++ (if 256 ≤ q.length then [put] else []) ∧
        t.cx = { s.cx with waits := s.cx.waits ++ if 256 ≤ q.length then [.osend pkg] else [] })

/-- R94, R99, R103-R105, R161, R163, R258, R262-R264, R284. The model's readings: the hold of a DRAIN (log entry 21), what a fence gates (log entry 122), the
checks of SEND and RECV (log entry 131). -/
def Obligations.FencesTransfers : Prop :=
  (∀ (s : State) (q sx sm dm : Nat), s.cd < s.chip.dies.length → s.me.dev < (if s.me.view = 1 then 2 else 8) →
    let w := (s.cx.rs sx).toNat
    let scope (d : Nat) : Prop := match s.me.view with
      | 0 => True
      | 1 => d / 4 = s.me.dev ∨ 8 ≤ d
      | _ => d = s.me.dev ∨ d = 8 + s.me.dev % 4
    let drained : List AccKind := [.stWord, .stRow, .atom, .red, .scst, .scrmw, .send, .plwrite, .mmst, .mmstRow]
    let draining (m : Nat) (l : List Nat) : Prop := (∀ d, m.testBit d = true ↔ d < 12 ∧ w.testBit d = true ∧ scope d) ∧
      ∀ k, k ∈ l ↔ ∃ x ∈ s.chip.accs, x.id = k ∧ x.die = s.cd ∧ x.kind ∈ drained ∧ s.chip.pendingAt m k = true
    let drain (m : Nat) (l : List Nat) (v : State) : State := if m = 0 ∨ l = [] then v else v.holding (.drain m l)
    let own (sm : Nat) (accs nodes : List Nat) (cyc : Nat) : Prop :=
      (∀ k, k ∈ accs ↔ sm.testBit 6 = true ∧ ((∃ x ∈ s.chip.accs, x.id = k ∧ x.die = s.cd ∧ x.path = 6 ∧
        s.chip.ownPending s.cd k = true) ∨ ∃ e ∈ s.me.entries, e.id = k ∧ e.isRecv = true)) ∧
      (∀ k, k ∈ nodes ↔ ∃ n ∈ (s.me.copy.nodes.filter fun n => n.state ≠ .retired) ++ s.me.copy.waiting, n.id = k ∧ n.op ≠ .migrate ∧
        sm.testBit (if n.op = .gather then 5 else 4) = true) ∧
      (∀ p ∈ s.cx.wpend, (sm % 16).testBit p.path = true → p.due < cyc) ∧
      ∀ p ∈ s.cx.pend, match p.land with
        | .kstore _ _ _ _ _ _ => sm.testBit 3 = true → p.due + 9 ≤ cyc
        | .xread _ _ _ rows => sm.testBit 0 = true → p.due + rows.length ≤ cyc
        | _ => True
    let due (sm : Nat) : List Nat := if sm.testBit 6 then (s.me.main.wpend ++ s.me.shadow.wpend).filterMap (·.recv) else []
    let fence (far : Bool) (sm dm : Nat) (accs nodes : List Nat) (cyc : Nat) : State :=
      let holds := dm % 16 ≠ 0 ∧ (accs ≠ [] ∨ nodes ≠ [])
      let t := if holds then s.holding (.fence accs nodes) else s
      if dm / 16 = 0 then t else t.withMe fun y => { y with
        fences := y.fences ++ [if holds then ⟨dm, s.me.inShadow, [], [], cyc, far⟩
          else ⟨dm, s.me.inShadow, accs ++ due sm, nodes, cyc, far⟩] }
    (w / 2 ^ 12 % 16 ≠ 0 → exec (.drain q sx) s = .next (s.trapped .dieMask 0) ∧
      exec (.fenced q sx) s = .next (s.trapped .dieMask 0)) ∧
    (w / 2 ^ 12 % 16 = 0 → ∃ m l, draining m l ∧ exec (.drain q sx) s = .next (drain m l s) ∧
      ∃ accs nodes cyc, own 127 accs nodes cyc ∧ exec (.fenced q sx) s = .next (if m = 0 then s else drain m l (fence true 127 127 accs nodes cyc))) ∧
    ((sm = 0 ∨ dm = 0) → exec (.fencep sm dm) s = .next s) ∧
    (sm ≠ 0 → dm ≠ 0 → ∃ accs nodes cyc, own sm accs nodes cyc ∧
      exec (.fencep sm dm) s = .next (fence false sm dm accs nodes cyc))) ∧
  (∀ (x : Die) (path : Nat) (sh own : Bool),
    let covers (g : Fence) : Prop := g.paths.testBit path = true ∧ g.sh = sh ∧ (own = true ∨ g.far = true)
    let f := x.fenceOver path sh own
    (∀ k, (k ∈ f.1 ↔ ∃ g ∈ x.fences, covers g ∧ k ∈ g.accs) ∧ (k ∈ f.2.1 ↔ ∃ g ∈ x.fences, covers g ∧ k ∈ g.nodes)) ∧
    (∀ g ∈ x.fences, covers g → g.cyc ≤ f.2.2) ∧ (f.2.2 = 0 ∨ ∃ g ∈ x.fences, covers g ∧ g.cyc = f.2.2)) ∧
  (∀ (s : State) (a : YArgs), s.cd < s.chip.dies.length →
    let x := s.me
    let gate := x.fenceOver 6 x.inShadow true
    let peer := (s.cx.rs a.sx).toNat % 16
    let tag := (s.cx.rs a.sx).toNat / 256 % 256
    let r := s.cx.rtl a.tl
    let partner := ∃ l, s.chip.launchOf s.cd = some l ∧ ∃ p ∈ l.parties, p.1 = peer
    let taken (cyc bank row : Nat) (wr : Bool) : Option Resv :=
      s.cx.resv.find? fun r => r.cyc = cyc ∧ r.bank = bank ∧ r.write = wr ∧ r.row ≠ row
    let trap (i : Instr) (c : Code) : Prop := exec i s = .next (s.trapped c 0)
    let both : List Instr := [.send a, .recv a]
    let space := Rec.rank r ≠ 0 → Rec.space r = 0
    (8 ≤ s.cd → ∀ i ∈ both, trap i .illegalOp) ∧
    (s.cd < 8 → x.comm = false → ∀ i ∈ both, trap i .wrongPhase) ∧
    (s.cd < 8 → x.comm = true →
      (¬ space → ∀ i ∈ both, trap i .wrongSpace) ∧
      (space → ¬ partner → ∀ i ∈ both, trap i .sendTarget) ∧
      (space → partner →
        ((peer, tag) ∈ x.sent → trap (.send a) .tagReuse) ∧
        ((peer, tag) ∈ x.recvd → trap (.recv a) .tagReuse) ∧
        (∀ code v l, yplace s a.tl a.c = .bad code v l →
          ((peer, tag) ∉ x.sent → exec (.send a) s = .next (s.naming code v l)) ∧
          ((peer, tag) ∉ x.recvd → exec (.recv a) s = .next (s.naming code v l))) ∧
        ((peer, tag) ∉ x.sent → (∀ code v l, yplace s a.tl a.c ≠ .bad code v l) →
          let many := 32 ≤ (x.sent.filter fun q => q.1 = peer).length
          let sends (v : State) (tg : Target) (row : Row) : Prop := ∃ t, exec (.send a) s = .next t ∧
            t.still = (v.withMe fun y => { y with sent := y.sent ++ [(peer, tag)] }).still ∧
            t.whats false = s.whats false ++ [({ blankAcc s.chip s.cd .send tg with
              a := BitVec.ofNat 64 tag, b := BitVec.ofNat 64 x.ssnum.toNat } : Acc).what false] ∧
            (x.fences = [] → ∃ n, s.chip.now + 12 + 48 * s.chip.hop s.cd peer ≤ n ∧
              (n, Instr.msgXf s.chip.nextId) ∈ t.chip.events ∧
              ∃ y ∈ t.chip.accs, y.id = s.chip.nextId ∧ y.stage = .forwarded ∧ y.home = some peer ∧ y.data = row ∧
                y.inc = s.chip.incOf s.cd peer)
          (many → trap (.send a) .sendLimit) ∧
          (¬ many → ∀ row, yplace s a.tl a.c = .beyond row → sends s .beyond row) ∧
          (¬ many → ∀ d bank row n, yplace s a.tl a.c = .at (.wall d bank row) n →
            match taken s.cx.prog bank row false with
            | some r => exec (.send a) s = .next (s.naming .bankConflict 0 [bank, s.cx.prog, r.cyc])
            | none => sends (s.reserving s.cx.prog bank row false false) (.wall d bank row) (s.wallRow d bank row))) ∧
        ((peer, tag) ∉ x.recvd → (∀ code v l, yplace s a.tl a.c ≠ .bad code v l) →
          let takes (v : State) (bank row : Nat) : Prop :=
            if 256 ≤ x.entries.length then exec (.recv a) s = .next (v.trapped .landingFull 0)
            else
              let u := (v.named a.arr (.recv bank row peer tag)).withMe fun y => { y with
                recvd := y.recvd ++ [(peer, tag)]
                entries := y.entries.map fun e => if e.id = s.chip.nextId then
                  { e with after := gate.1, afterNodes := gate.2.1, afterCyc := gate.2.2 } else e }
              match x.staging.find? fun q => q.1 = peer ∧ q.2.1 = tag with
              | none => exec (.recv a) s = .next u
              | some q => exec (.recv a) s = .next (u.withMe fun y => { y with
                  staging := y.staging.filter fun p => ¬ (p.1 = peer ∧ p.2.1 = tag)
                  entries := y.entries.map fun e => if e.id = s.chip.nextId then { e with arrived := true, data := q.2.2 } else e })
          (∀ row, yplace s a.tl a.c = .beyond row → takes s 1024 0) ∧
          ∀ d bank row n, yplace s a.tl a.c = .at (.wall d bank row) n →
            match taken (s.cx.prog + a.arr) bank row true with
            | some r => exec (.recv a) s = .next (s.naming .bankConflict 0 [bank, s.cx.prog + a.arr, r.cyc])
            | none => takes (s.reserving (s.cx.prog + a.arr) bank row true false) bank row)))) ∧
  (∀ (s : State) (id d : Nat) (a : Acc), s.chip.acc id = some a → a.home = some d → a.stage = .forwarded → d < s.chip.dies.length →
    (s.chip.die d).inc = a.inc → (s.chip.die d).present = true → a.sinc = (s.chip.die a.die).inc → a.kind = .send →
    let x := s.chip.die d
    let tag := a.a.toNat
    let here := x.comm = true ∧ x.launch = a.launch ∧ x.ssnum.toNat = a.b.toNat
    let waits (e : Entry) : Bool := match e.what with | .recv _ _ src n => src = a.die && n = tag && !e.arrived | _ => false
    let isOver := x.run = .contained ∨ (x.run = .ended ∧ ¬ (here ∧ (x.entries.find? waits).isSome = true))
    Completes (exec (.msgXf id) s) ∧ ∃ t, exec (.msgXf id) s = .next t ∧ t.mem = s.mem ∧
      (isOver → (t.chip.die d).entries = x.entries ∧ (t.chip.die d).staging = x.staging ∧ (t.chip.die d).trapQ = x.trapQ) ∧
      (¬ isOver → (here → ∀ b ∈ t.chip.accs, b.id ≠ id) ∧
      (here → ∀ e, x.entries.find? waits = some e → (t.chip.die d).staging = x.staging ∧
        (t.chip.die d).entries = x.entries.map fun f => if f.id = e.id then { f with arrived := true, data := a.data } else f) ∧
      (here → x.entries.find? waits = none →
        (t.chip.die d).entries = x.entries ∧ (t.chip.die d).staging = x.staging ++ [(a.die, tag, a.data)]) ∧
      (¬ here → x.launch = a.launch → x.launch ≠ none → ∃ q ∈ (t.chip.die d).trapQ, q.code = .sendUnmatched ∧ q.cls = 'N')))

/-! ### Walkers and homes -/

/-- R75, R78, R112, R113, R254-R256, R265, R266, R301, R321, R322, R326, R330, R356, R357, R379, R382. The model's readings: the row that a read of the
cycle sees beside a service write (log entry 4), and an arm that finds an older entry of its row, MONCLR at the home (log entry 123). -/
def Obligations.HomesPerform : Prop :=
  (∀ (s : State) (id h d g : Nat) (k : MgKind) (f : BitVec 2048),
    Completes (exec (.msgRd id) s) ∧ Completes (exec (.msgWr id) s) ∧ Completes (exec (.msgAt id) s) ∧ Completes (exec (.msgMg k) s) ∧
    Completes (exec (.routeNotice id h) s) ∧ Completes (exec (.walkerResolve id) s) ∧
    (d < 12 → Completes (exec (.redWindowExpire d id) s) ∧ Completes (exec (.flitReceive d g f) s))) ∧
  (∀ (s : State) (id h : Nat) (a : Acc), s.chip.acc id = some a → a.id = id →
    let now := s.chip.now
    let ready (wr : Bool) : Prop := a.stage = .forwarded ∧ a.home = some h ∧ (s.chip.die h).inc = a.inc ∧
      (s.chip.die h).present = true ∧ a.ready = none ∧ a.holdUp s h wr = none ∧
      (∀ d k pc, pcOf a.key = some (d, k, pc) → ((s.chip.die d).stack k).training pc = false) ∧
      (a.kind.isNode = true → ∃ n k m, a.node = some (n, k) ∧ (s.chip.die a.die).node n = some m ∧ m.fault = none)
    let served (t : State) (wr : Bool) : State := if pcOf a.key = none ∧ isWall a.key = true ∧ a.kind ≠ .arm then
      t.withChip fun c => { c with served := (h, bankOf a.key, wr) :: c.served } else t
    let becomes (t : State) (b : Acc) : State := t.withChip fun c => { c with accs := c.accs.map fun x => if x.id = id then b else x }
    let rows := a.kind ≠ .plwrite ∧ pageOf a.key = none ∧ s.chip.isBad a.key = false ∧ s.chip.isDead a.key = false
    let acked := a.rest ≠ 0 ∧ h ≠ a.die
    let answers (t : State) : Prop := (now + a.rest, Instr.msgRs id) ∈ t.chip.events ∧ ∃ b, t.chip.acc id = some b ∧ b.stage = .performed
    let settled (t : State) : Prop := (acked → answers t) ∧ (¬ acked → ∀ b ∈ t.chip.accs, b.id ≠ id)
    let k (b : Nat) := b - a.key
    let inRow (b : Nat) := a.key ≤ b ∧ b < a.key + 64
    -- reads
    (∃ t, exec (.msgRd id) s = .next t ∧ t.mem = s.mem) ∧
    ((∀ b ∈ s.chip.accs, b.id = id → b = a) → ready false → a.kind ≠ .plread → s.chip.isBad a.key = false →
      exec (.msgRd id) s = .next ((becomes (served s false) { a with stage := .performed, data := s.rowNow a.key }).awaiting
        (now + a.rest) (.msgRs id))) ∧
    (pageOf a.key = none → (∀ p ∈ s.chip.undo, p.1 ≠ a.key) → s.rowNow a.key = s.mem.row a.key) ∧
    -- writes
    (ready true → rows → a.word < 8 → ∃ t, exec (.msgWr id) s = .next t ∧ settled t ∧
      (∀ b, t.mem.read b = if ¬ inRow b then s.mem.read b
        else if a.kind ∈ [.stWord, .scst, .mmst, .cword, .atom, .scrmw] then
          (if 8 * a.word ≤ k b ∧ k b < 8 * a.word + 8 then a.a.extractLsb' (8 * (k b - 8 * a.word)) 8 else s.mem.read b)
        else if a.be.getLsbD (k b) = false then s.mem.read b
        else if a.kind = .nodeWrite then
          let half (j : Nat) : BitVec 4 :=
            if (if j < 64 then a.a.getLsbD j else a.b.getLsbD (j - 64)) then a.data.extractLsb' (4 * j) 4
            else (s.mem.read b).extractLsb' (4 * (j % 2)) 4
          half (2 * k b + 1) ++ half (2 * k b)
        else rowByte a.data (k b)) ∧
      (∀ d, d < 12 → ∀ m ∈ s.chip.monsOf d, m.armed = true → m.row = a.key →
        ∃ n, now ≤ n ∧ (n, Instr.monitorTrigger d m.id) ∈ t.chip.events) ∧
      (isWall a.key = true → (∀ p ∈ s.chip.undo, p.1 ≠ a.key) → t.rowNow a.key = s.mem.row a.key)) ∧
    (a.kind = .plwrite → ready true →
      let la := a.key % 2 ^ 64
      s.chip.isDead (leafRow h la) = false → s.chip.leafBad h la = false → ∃ t, exec (.msgWr id) s = .next t ∧ settled t ∧
        ∀ l, (s.chip.die h).dir.leaf la = some l → h < s.chip.dies.length →
          t.leafVal h la = a.a ∨ t.leafVal h la = withHeat a.a l.val) ∧
    -- atomics and reductions
    (ready true → rows → a.word < 8 → ∃ t, exec (.msgAt id) s = .next t ∧
      let old := rowWord (s.mem.row a.key) a.word
      let new : Word := match a.fn with
        | 0 => old + a.a
        | 1 => old &&& a.a
        | 2 => old ||| a.a
        | 3 => old ^^^ a.a
        | 4 => if old.toInt ≤ a.a.toInt then old else a.a
        | 5 => if a.a.toInt ≤ old.toInt then old else a.a
        | 6 => a.a
        | _ => if old = a.b then a.a else old
      (a.kind ∈ [.atom, .scrmw] →
        (∀ b, t.mem.read b = if a.key + 8 * a.word ≤ b ∧ b < a.key + 8 * a.word + 8 then
          new.extractLsb' (8 * (k b - 8 * a.word)) 8 else s.mem.read b) ∧
        (a.entry = none → a.returns = none → (∀ b ∈ s.chip.accs, b.kind = .red → b.node ≠ some (id, 0)) → settled t) ∧
        (a.entry ≠ none ∨ a.returns ≠ none → (now + a.rest, Instr.msgRs id) ∈ t.chip.events ∧
          ∃ b, t.chip.acc id = some b ∧ b.stage = .performed ∧ rowWord b.data a.word = old)) ∧
      (a.kind = .red → (∀ b ∈ s.chip.accs, b.kind = .red → b.node ≠ some (id, 0)) → settled t ∧
        (∀ b, ¬ inRow b → t.mem.read b = s.mem.read b) ∧
        let was := s.mem.row a.key
        let is := t.mem.row a.key
        let e32 (r : Row) (j : Nat) : BitVec 32 := r.extractLsb' (32 * j) 32
        let nan (x : BitVec 32) : Prop := 0x7F800000 < x.toNat % 2 ^ 31
        -- the order of the FP32 codes, with -0 below +0
        let place (x : BitVec 32) : Int := if x.msb = true then -((x.toNat % 2 ^ 31 : Nat) : Int) - 1 else (x.toNat : Int)
        (a.fn = 0 → ∀ j, j < 16 → e32 is j = e32 was j + e32 a.data j) ∧
        (a.fn = 1 → ∀ j, j < 8 → rowWord is j = rowWord was j + rowWord a.data j) ∧
        (a.fn = 2 → ∀ j, j < 16 → e32 is j = BitVec.ofNat 32 (roundTo 1 ⟨.rne, 8, false⟩
          (Machine.Num.add .rne (decodeNum 1 (e32 was j).toNat) (decodeNum 1 (e32 a.data j).toNat)) 0).1) ∧
        (a.fn = 3 → ∀ j, j < 16 → (e32 is j).toInt = min (e32 was j).toInt (e32 a.data j).toInt) ∧
        (a.fn = 4 → ∀ j, j < 16 → (e32 is j).toInt = max (e32 was j).toInt (e32 a.data j).toInt) ∧
        (a.fn = 5 ∨ a.fn = 6 → ∀ j, j < 16 → let x := e32 was j
          let y := e32 a.data j
          (nan x ∨ nan y → e32 is j = 0x7FC00000) ∧
          (¬ nan x → ¬ nan y → (e32 is j = x ∨ e32 is j = y) ∧
            place (e32 is j) = if a.fn = 5 then min (place x) (place y) else max (place x) (place y))) ∧
        (a.fn = 7 → is = was ||| a.data))) ∧
    -- arms
    (ready false → a.kind = .arm → a.die < s.chip.dies.length →
      let x := s.chip.die a.die
      let older := x.monitors.find? fun m => m.armed && m.row == a.key && m.id != a.a.toNat
      (a.fn = 1 → ∃ t, exec (.msgMg (.arm id)) s = .next t ∧ t.mem = s.mem ∧ (∀ b ∈ t.chip.accs, b.id ≠ id) ∧
        (t.chip.die a.die).monitors = x.monitors.filter fun m => ¬ (m.armed = true ∧ m.row = a.key)) ∧
      (a.fn ≠ 1 → ∀ m ∈ older, ∃ t b, exec (.msgMg (.arm id)) s = .next t ∧ t.mem = s.mem ∧ (now + a.rest, Instr.msgRs id) ∈ t.chip.events ∧
        t.chip.acc id = some b ∧ b.fn = 3 ∧ b.b = BitVec.ofNat 64 m.id ∧ (t.chip.die a.die).monitors = x.monitors) ∧
      (a.fn ≠ 1 → older = none → s.chip.migsWhere (fun m => m.state != .waiting && inFrame m.oldAddr a.key) = [] →
        (∀ m ∈ x.monitors, m.id ≠ a.a.toNat) →
        exec (.msgMg (.arm id)) s = .next (s.withChip fun c => { c with accs := c.accs.filter fun b => b.id ≠ id })) ∧
      (a.fn ≠ 1 → older = none → s.chip.migsWhere (fun m => m.state != .waiting && inFrame m.oldAddr a.key) = [] →
        (∃ m ∈ x.monitors, m.id = a.a.toNat) →
        ∃ t, exec (.msgMg (.arm id)) s = .next t ∧ t.mem = s.mem ∧ (now + a.rest, Instr.msgRs id) ∈ t.chip.events ∧
          (t.chip.die a.die).monitors = x.monitors.map fun m =>
            if m.id = a.a.toNat then { m with row := a.key, home := h, armed := true, va := a.va, fmt := a.fmt, inc := a.inc }
            else m)) ∧
    (a.fn ≠ 3 → (∃ m ∈ (s.chip.die a.die).monitors, m.id = a.a.toNat) →
      exec (.msgMg (.armAck id)) s = .next ((s.withChip fun c => { c with accs := c.accs.filter fun b => b.id ≠ id }).withDie a.die
        fun x => { x with monitors := x.monitors.map fun m => if m.id = a.a.toNat then { m with acked := true } else m })) ∧
    (a.fn = 3 → (∃ m ∈ (s.chip.die a.die).monitors, m.id = a.b.toNat) →
      let turn (w : Wait) : Wait := match w with
        | .waita i lim lm pd sx => if i = a.a.toNat then .waita a.b.toNat lim lm pd sx else w
        | _ => w
      exec (.msgMg (.armAck id)) s = .next ((s.withChip fun c => { c with accs := c.accs.filter fun b => b.id ≠ id }).withDie a.die
        fun x => { x with
          monitors := x.monitors.filter fun m => m.id ≠ a.a.toNat
          main := { x.main with waits := x.main.waits.map turn }, shadow := { x.shadow with waits := x.shadow.waits.map turn } })) ∧
    ((∀ b ∈ s.chip.accs, b.kind = .red → b.node ≠ some (id, 0)) → (∀ b ∈ s.chip.accs, b.id = id → b = a) →
      exec (.routeNotice id h) s = .next (becomes s { a with noticed := true, home := some h })) ∧
    -- the walker
    (a.stage = .toWalker → (s.chip.die a.dirDie).inc = a.inc → (s.chip.die a.dirDie).present = true →
      a.dirDie < s.chip.dies.length → ∃ t, exec (.walkerResolve id) s = .next t ∧
      let x := s.chip.die a.dirDie
      let failed (c : Code) : Prop := (now + s.chip.toDie a.dirDie a.die, Instr.msgRs id) ∈ t.chip.events ∧
        ∃ b, t.chip.acc id = some b ∧ b.stage = .failed ∧ b.code = c
      match s.chip.leafAt a.dirDie a.off with
      | none => failed .pageFault
      | some la =>
        let v := (s.leafVal a.dirDie la).toNat
        let buffered := x.dir.leaf la ≠ none
        let plain := a.kind ≠ .plread ∧ a.kind ≠ .plwrite
        let arming := a.kind = .arm ∧ a.fn = 0 ∧ v / 2 ^ 6 % 4 ≠ 0
        (¬ plain → ∃ b, t.chip.acc id = some b ∧ b.stage = .forwarded ∧ b.home = some a.dirDie ∧
          b.key = memAddr (homeKind a.dirDie) a.dirDie la ∧ (now, performEvent a) ∈ t.chip.events ∧ t.mem = s.mem) ∧
        (plain → s.chip.leafWaits a.dirDie la ≠ 0 → t = s.awaiting (now + s.chip.leafWaits a.dirDie la) (.walkerResolve id)) ∧
        (plain → s.chip.leafWaits a.dirDie la = 0 → s.chip.leafBad a.dirDie la = true → failed .uncorrectable) ∧
        (plain → s.chip.leafWaits a.dirDie la = 0 → s.chip.leafBad a.dirDie la = false → ¬ buffered →
          (∃ n, now < n ∧ (n, Instr.walkerResolve id) ∈ t.chip.events) ∧ ((t.chip.die a.dirDie).dir.leaf la) ≠ none) ∧
        (plain → buffered → leafOk v = false → failed .pageFault) ∧
        (plain → buffered → leafOk v = true → a.kind.isNode = true → v / 2 ^ 36 % 32 ≠ a.fmt → failed .copyFormat) ∧
        (plain → buffered → leafOk v = true → (a.kind.isNode = true → v / 2 ^ 36 % 32 = a.fmt) → ¬ arming →
          (v / 2 ^ 6 % 4 = 2 → (∃ b, t.chip.acc id = some b ∧ b.stage = .atWalker) ∧
            (t.chip.die a.dirDie).dir.waiting = x.dir.waiting ++ [id]) ∧
          (v / 2 ^ 6 % 4 ≠ 2 → t.mem = s.mem ∧ ∃ b, t.chip.acc id = some b ∧ b.stage = .forwarded ∧ b.home = some (v / 4 % 16) ∧
            (a.kind ≠ .red → ∃ n, (n, performEvent a) ∈ t.chip.events) ∧
            b.key = memAddr (if v % 4 = 0 then kNear else if v % 4 = 1 then kFar else kCxl) (v / 4 % 16)
              (v / 256 % 2 ^ 28 * 2 ^ 16 + a.off % 2 ^ 16 / 64 * 64))))) ∧
  (∀ (s : State) (d g id : Nat) (row : Nat) (f : BitVec 2048), d < 12 → d < s.chip.dies.length →
    let x := s.chip.die d
    exec (.msgMg (.clear d row)) s = .next (s.withDie d fun y => { y with
      monitors := y.monitors.filter fun m => ¬ (m.armed = true ∧ m.row = row) }) ∧
    ((∀ e ∈ x.reds, e.acc ≠ id) → exec (.redWindowExpire d id) s = .next s) ∧
    (∀ a, (∃ e ∈ x.reds, e.acc = id) → s.chip.acc id = some a → a.id = id →
      exec (.redWindowExpire d id) s = .next ((s.withDie d fun y => { y with reds := y.reds.filter fun e => e.acc ≠ id }).awaiting
        (s.chip.now + a.rest) (if a.stage = .toWalker then .walkerResolve id else performEvent a))) ∧
    (let good := f.extractLsb' 480 32 = Config.crc32 (f.extractLsb' 512 1536 ++ f.extractLsb' 0 480) ∧
        ∀ k, k < 3 → (f.extractLsb' (160 * k) 4).toNat ≤ 5;
      (good → exec (.flitReceive d g f) s = .next s) ∧
      (¬ good → g < 4 → ∃ t, exec (.flitReceive d g f) s = .next t ∧ t.mem = s.mem ∧
        fld (t.chip.die d).linkst.toNat (8 * g + 2) 6 = (fld x.linkst.toNat (8 * g + 2) 6 + 1) % 64)))

/-- R40-R44, R99, R107, R109, R251, R283, R342, R345, R352, R368. The model's readings: a saved row in its launch (log entry 13), FBT for parties only (log
entry 100), what a host reads kept in hostData (log entry 116), the row of a RECV as a write of the fabric path behind fences (log
entry 122). -/
def Obligations.RequestersLand : Prop :=
  (∀ (s : State) (id d : Nat), Completes (exec (.msgRs id) s) ∧ Completes (exec (.landingArrival id) s) ∧
    (d < 12 → Completes (exec (.namedCycleHold d) s) ∧ Completes (exec (.wheelPositionIssue d) s))) ∧
  (∀ (s : State) (id : Nat), s.chip.acc id = none → exec (.msgRs id) s = .next s ∧ exec (.landingArrival id) s = .next s) ∧
  (∀ (s : State) (id : Nat) (a : Acc), s.chip.acc id = some a → a.id = id → a.die < s.chip.dies.length →
    let now := s.chip.now
    let x := s.chip.die a.die
    let gone (t : State) : State := t.withChip fun c => { c with accs := c.accs.filter fun b => b.id ≠ id }
    (x.inc ≠ a.sinc → exec (.msgRs id) s = .next (gone (s.withDie a.die fun y => { y with stalecnt := y.stalecnt + 1 }))) ∧
    (x.inc = a.sinc → a.stage = .performed →
      (a.kind = .nodeRead → exec (.msgRs id) s = .next (s.awaiting now (.copyRowArrival id))) ∧
      (a.kind = .arm → exec (.msgRs id) s = .next (s.awaiting now (.msgMg (.armAck id)))) ∧
      (a.kind ∉ [.nodeRead, .arm, .image, .restore] → a.entry ≠ none → exec (.msgRs id) s = .next (s.awaiting now (.landingArrival id))) ∧
      (∀ p, a.kind ∉ [.nodeRead, .arm, .image, .restore] → a.entry = none → a.returns = some p → exec (.msgRs id) s =
        .next (s.withChip fun c => { c with oaccs := SMap.set [] c.oaccs p (SMap.get [] c.oaccs p ++ [id]) })) ∧
      (a.kind ∉ [.nodeRead, .arm, .image, .restore] → a.entry = none → a.returns = none → exec (.msgRs id) s = .next (if a.kind = .hostRd then
        (gone s).withChip fun c => { c with hostData := SMap.set 0 c.hostData (a.die - 8) a.data } else gone s))) ∧
    (x.inc = a.sinc → a.stage = .performed → a.kind = .restore → ∀ l, a.launch = some l → exec (.msgRs id) s = .next ((gone s).withChip fun c =>
      { c with launches := c.launches.map fun k => if k.id = l then
          { k with saved := k.saved.map fun p => if p.die = a.die then p.putRow a.a.toNat a.data else p } else k })) ∧
    (x.inc = a.sinc → a.stage = .failed →
      (a.kind ∈ [.ldWord, .ldRow, .atom, .scld, .scrmw, .plread, .mmld, .mmldRow] → ∀ e, a.entry = some e →
        a.path ≠ 7 → ¬ (a.code = .pageFault ∧ a.cause = 1 ∧ a.asked = false) →
        ∃ t, exec (.msgRs id) s = .next t ∧ t.mem = s.mem ∧ t.chip.accs = s.chip.accs ∧ (t.chip.die a.die).entries = x.entries.map (fun f =>
            if f.id = e then { f with fault := some a.code } else f) ∧
          (a.code = .targetLost → a.target.isVirt = true → ∀ q ∈ (t.chip.die a.die).tc a.cache, a.va / 2 ^ q.bits ≠ q.page)) ∧
      (a.kind ∈ [.stWord, .stRow, .scst, .plwrite, .mmst, .mmstRow] → a.entry = none → a.path = 6 → a.code ≠ .uncorrectable →
        ¬ (a.sh = true ∧ x.inShadow = true) →
        (∀ e ∈ x.logF, e.acc ≠ id) → (∀ b ∈ s.chip.accs, b.kind = .red → b.node ≠ some (id, 0)) →
        ∃ t e, exec (.msgRs id) s = .next t ∧ t.mem = s.mem ∧ e.acc = id ∧ e.code = a.code ∧
          (e.disc = true ↔ a.code ≠ .pageFault ∨ a.cause = 6) ∧ (∃ b, t.chip.acc id = some b ∧ b.stage = .logged) ∧
          let y := t.chip.die a.die;
          (x.logF.length < 128 → x.logOut = [] → y.logF = x.logF ++ [e] ∧ y.logOut = x.logOut ∧ y.main.waits = x.main.waits ∧
            y.shadow.waits = x.shadow.waits) ∧
          (128 ≤ x.logF.length → y.logF = x.logF ∧ y.logOut = x.logOut ++ [(0, e)] ∧
            (t.stream a.die a.sh).waits = (s.stream a.die a.sh).waits ++ [.sideLog 0])) ∧
      (a.kind ∈ [.stWord, .stRow, .scst, .plwrite, .mmst, .mmstRow] → a.entry = none → a.path = 6 → a.code ≠ .uncorrectable →
        a.sh = true → x.inShadow = true → (∀ b ∈ s.chip.accs, b.kind = .red → b.node ≠ some (id, 0)) →
        ∃ t q, exec (.msgRs id) s = .next t ∧ t.mem = s.mem ∧ (∀ b ∈ t.chip.accs, b.id ≠ id) ∧ (t.chip.die a.die).trap = some q ∧
          q.code = .doubleFault ∧ q.cls = 'F' ∧ (t.chip.die a.die).logF = x.logF ∧ (now, Instr.holdTimeout a.die) ∈ t.chip.events)) ∧
    exec (.landingArrival id) s = .next ((gone s).withDie a.die fun y => { y with
      entries := y.entries.map fun f => if a.entry = some f.id then
        { f with arrived := true
                 data := match f.what with | .word _ => wordRow 0 (rowWord a.data a.word) | _ => a.data }
      else f })) ∧
  (∀ (s : State) (d : Nat) (e : Entry), d < s.chip.dies.length →
    let x := s.chip.die d
    let u := s.withDie d fun y => { y with entries := y.entries.filter fun f => f.id ≠ e.id }
    let t := s.after (landEntry d e)
    let y := s.stream d e.sh
    let z := t.stream d e.sh
    (∀ k, k ≠ d → t.chip.die k = s.chip.die k) ∧ t.mem = s.mem ∧
    (∀ n, e.what = .word n → (n = 0 → t = u) ∧ (n ≠ 0 → z = { y with s := SMap.set 0 y.s n (rowWord e.data 0) })) ∧
    (∀ n rotb, e.what = .row n rotb → n + 8 ≤ 64 → (∀ k, k < 8 → n + k ≠ 0 → SMap.get 0 z.s (physS rotb (n + k)) = rowWord e.data k) ∧
      ∀ m, (∀ k, k < 8 → n + k ≠ 0 → m ≠ physS rotb (n + k)) → SMap.get 0 z.s m = SMap.get 0 y.s m) ∧
    (∀ n q c l, e.what = .pop n q → x.counts q = c :: l → SMap.get [] (t.chip.die d).queues q = l ∧
      (n ≠ 0 → SMap.get 0 z.s n = c.setWidth 64)) ∧
    (∀ q first last own c l, e.what = .loopq q first last own → x.counts q = c :: l → SMap.get [] (t.chip.die d).queues q = l ∧
      (c = 0 → z.pc = last + 1 ∧ z.loops = y.loops) ∧
      (c ≠ 0 → z.loops = ⟨first, last, .queue, 0, c.toNat - 1, 0, c.toNat⟩ :: y.loops ∧ z.pc = y.pc)) ∧
    (∀ n, e.what = .node n → t = u) ∧
    (∀ bank row src tag, e.what = .recv bank row src tag →
      z = { y with wpend := y.wpend ++ if bank < 1024 then [⟨max y.prog e.afterCyc, e.iss, bank, row, allBytes, e.data, 6, some e.id⟩] else [] })) ∧
  (∀ (s : State) (d : Nat), d < 12 → d < s.chip.dies.length →
    let x := s.chip.die d
    let now := s.chip.now
    let ticked := s.withDie d fun y => { y with holdcnt := y.holdcnt + 1, heldFor := y.heldFor + 1 }
    (x.frozen = false → exec (.namedCycleHold d) s = .next s) ∧
    (x.frozen = true → x.copy.nodes = [] → x.matrix.follow = [] → x.fences = [] → x.mace.jobs = [] → s.chip.accs = [] →
      x.main.waits = [] → x.shadow.waits = [] → (∀ e ∈ x.entries, e.fault = none ∧ e.after = [] ∧ e.afterNodes = []) →
      (∀ e ∈ s.chip.events, e.2 ≠ .holdTimeout d) →
      exec (.namedCycleHold d) s = .next (if d < 8 ∧ x.terms.fbt < x.heldFor + 1 then ticked.awaiting now (.holdTimeout d) else ticked)) ∧
    (let isOpen := now / 2 % 64 / 8 = d ∧ x.lastSc ≠ some (now / 2);
      (¬ isOpen → exec (.wheelPositionIssue d) s = .next s) ∧
      (isOpen → exec (.wheelPositionIssue d) s = .next (s.withDie d fun y => { y with
        main := { y.main with waits := y.main.waits.filter fun w => w ≠ .wheel }
        shadow := { y.shadow with waits := y.shadow.waits.filter fun w => w ≠ .wheel } }))))

/-! ### Barriers, monitors, queues and firmware events -/

/-- R44, R259-R261, R265-R267, R269, R305. The model's readings: by what a die knows its monitor for a row (log entry 48), that FWAIT does not see the events of its
issue cycle (log entry 83), the look at the home (log entry 123). -/
def Obligations.BarriersMonitors : Prop :=
  (∀ (s : State) (d n : Nat), Completes (exec (.firmwareEvent n) s) ∧ (d < 12 → Completes (exec (.bwaitTimeout d) s) ∧
    Completes (exec (.waitaTimeout d) s) ∧ Completes (exec (.monitorTrigger d n) s) ∧ Completes (exec (.fwaitTimeout d) s))) ∧
  (∀ (s : State) (b sx pd sd q : Nat) (a : YArgs), s.cd < s.chip.dies.length →
    let x := s.me
    let w := (s.cx.rs sx).toNat
    let now := s.chip.now
    let bar := SMap.get {} x.barriers b
    let limit (lim : Nat) : Option Nat := if lim = 0xFFFFFF then none else some (now + lim)
    let timed (t : State) (lim : Nat) (i : Instr) : State := if lim = 0xFFFFFF then t else t.awaiting (now + lim) i
    exec (.binit b sx pd sd) s = .next (s.flying [s.flight 1 (.binit b (w % 65536))]) ∧
    exec (.barr b sx pd sd) s = .next (s.flying [s.flight 1 (.barr b (if sx = 0 then 1 else w % 65536))]) ∧
    (let v := w % 65536
      let lim := w / 2 ^ 16 % 2 ^ 24
      let past := (bar.phase - BitVec.ofNat 16 v).toNat
      ∃ r : Nat → Word, (∀ st, st < 3 → fld (r st).toNat 0 16 = st ∧ fld (r st).toNat 16 16 = bar.phase.toNat ∧
          fld (r st).toNat 32 16 = bar.count.toNat ∧ fld (r st).toNat 48 16 = bar.target.toNat) ∧
        exec (.bwait b sx pd sd) s = .next (
          if 1 ≤ past ∧ past ≤ 32767 then s.flying (s.sRes 1 sd (r 0) ++ s.pRes 1 pd true)
          else if lim = 0 then s.flying (s.sRes 1 sd (r 2) ++ s.pRes 1 pd false)
          else timed (s.holding (.bwait b v (limit lim) (s.physPd pd) (s.physReg sd))) lim (.bwaitTimeout s.cd))) ∧
    -- wait on address
    (let lim := w % 2 ^ 24
      let c := a.c
      let i := Instr.waita a.tl c sx pd
      let hold (t : State) (mon : Nat) : State :=
        let u := t.holding (.waita mon lim (limit lim) (s.physPd pd) (s.physReg sx))
        if lim = 0 then u else timed u lim (.waitaTimeout s.cd)
      let answers (st : Nat) : State := s.flying (s.sRes 1 sx (BitVec.ofNat 64 st) ++ s.pRes 1 pd (st = 0))
      match yplace s a.tl c with
      | .bad code d l => exec i s = .next (s.naming code d l)
      | .beyond _ => exec i s = .next (answers 3)
      | .fill _ _ => exec i s = .next (answers 3)
      | .at tg n => match s.monOf s.cd tg with
        | some m =>
          if m.triggered then exec i s = .next ((s.withMe fun y => { y with
            monitors := y.monitors.filter fun k => k.id ≠ m.id }).flying (s.sRes 1 sx 0 ++ s.pRes 1 pd true))
          else if lim = 0 ∧ m.acked = true then exec i s = .next (answers 1)
          else exec i s = .next (hold s m.id)
        | none =>
          let asks (u : State) : Prop := ∃ t, exec i s = .next t ∧ t.still = (hold u s.chip.nextId).still ∧
            t.whats true = s.whats true ++ [({ blankAcc (s.withChip fun c => { c with nextId := s.chip.nextId + 1 }).chip s.cd .arm tg with
              word := n, a := BitVec.ofNat 64 s.chip.nextId } : Acc).what true]
          (64 ≤ x.monitors.length → exec i s = .next (answers 3)) ∧
          (x.monitors.length < 64 → asks (s.withMe fun y => { y with
            monitors := y.monitors ++ [{
              id := s.chip.nextId, key := tg, row := 0, home := 0, triggered := false, armed := false, acked := false
              bundle := s.cx.pc, prog := s.cx.prog, site := x.site s.cx .y }] }))) ∧
    (a.fn = 1 → exec (.monclr a) s = .next (s.flying [s.flight 1 (.monclr none)])) ∧
    (a.fn ≠ 1 → match yplace s a.tl a.c with
      | .bad code d l => exec (.monclr a) s = .next (s.naming code d l)
      | .at tg _ => match s.monOf s.cd tg with
        | some m => exec (.monclr a) s = .next (s.flying [s.flight 1 (.monclr (some m.id))])
        | none =>
          if s.rowKey s.cd tg = none ∧ x.monitors ≠ [] then ∃ t, exec (.monclr a) s = .next t ∧ t.still = s.still ∧
            t.whats true = s.whats true ++ [({ blankAcc s.chip s.cd .arm tg with fn := 1 } : Acc).what true]
          else exec (.monclr a) s = .next s
      | _ => exec (.monclr a) s = .next s) ∧
    -- queues
    (exec (.cqpush q sx) s = .next (
      if x.held q + ((x.main.pend ++ x.shadow.pend).filter fun p => match p.land with | .push k _ => k = q | _ => false).length < 64 then
        s.flying [s.flight 1 (.push q ((s.cx.rs sx).setWidth 32))]
      else s.trapped .queueFull 0)) ∧
    (exec (.cqpop q sx) s = .next (
      if x.entries.length < 256 then s.named 2 (.pop (s.physReg sx) q) else s.trapped .landingFull 0)) ∧
    (∃ v : Word, exec (.ostat q sx) s = .next (s.flying (s.sRes 1 sx v)) ∧
      let dest := w % 256
      fld v.toNat 0 8 = dest ∧ fld v.toNat 8 9 = (SMap.get [] s.chip.oqueue dest).length % 512 ∧ fld v.toNat 17 15 = 0 ∧
        fld v.toNat 32 16 = (SMap.get 0 x.odone dest).toNat ∧ fld v.toNat 48 16 = (SMap.get 0 x.overrun dest).toNat) ∧
    -- firmware events
    (s.sysMode = false → exec (.fwait q sx) s = .next (s.trapped .privilegedOp 0)) ∧
    (s.sysMode = true →
      let lim := w / 2 ^ 8 % 2 ^ 24
      ∃ hit : BitVec 8, (∀ k, k < 8 → hit.getLsbD k = (x.fwev.getLsbD k && w.testBit k)) ∧
        exec (.fwait q sx) s = .next (
          if hit ≠ 0 ∨ lim = 0 then (s.flying (s.sRes 1 sx (hit.setWidth 64))).withMe fun y => { y with fwev := y.fwev &&& ~~~hit }
          else timed (s.holding (.fwait (w % 256) (limit lim) (s.physReg sx))) lim (.fwaitTimeout s.cd)))) ∧
  -- what lands
  (∀ (s : State) (d : Nat) (sh : Bool) (due iss b n : Nat) (v : BitVec 32), d < s.chip.dies.length →
    let lands (l : Land) : State := s.after (landOne d sh ⟨due, iss, l⟩)
    let bar := SMap.get {} (s.chip.die d).barriers b
    let sum := bar.count.toNat + n
    lands (.binit b n) = s.withDie d (fun y => { y with
      barriers := SMap.set {} y.barriers b { bar with target := BitVec.ofNat 16 n, count := 0 } }) ∧
    lands (.barr b n) = s.withDie d (fun y => { y with
      barriers := SMap.set {} y.barriers b (if bar.target = 0 then bar else { bar with
        count := BitVec.ofNat 16 (sum % bar.target.toNat), phase := bar.phase + BitVec.ofNat 16 (sum / bar.target.toNat) }) }) ∧
    lands (.push b v) = s.withDie d (fun y => { y with queues := SMap.set [] y.queues b (SMap.get [] y.queues b ++ [v]) }) ∧
    lands (.monclr none) = s.withDie d (fun y => { y with monitors := [] }) ∧
    lands (.monclr (some b)) = s.withDie d (fun y => { y with monitors := y.monitors.filter fun m => m.id ≠ b })) ∧
  -- what ends a hold
  (∀ (s : State) (d b v pd sd mon lim mask bit row : Nat) (lm : Option Nat), d < 12 → d < s.chip.dies.length →
    (s.chip.die d).shadow.waits = [] →
    let x := s.chip.die d
    let y := x.main
    let bar := SMap.get {} x.barriers b
    let past := (bar.phase - BitVec.ofNat 16 v).toNat
    let expired := ∃ t, lm = some t ∧ t ≤ s.chip.now
    let ends (t : State) (n : Nat) (r : Word) (p : List Pend) : State := t.withDie d fun z => { z with main := { z.main with
      waits := [], pend := z.main.pend ++ (if n = 0 then [] else [⟨y.prog, y.prog, .s n r⟩]) ++ p } }
    let pred (b : Bool) : List Pend := if pd = 0 then [] else [⟨y.prog, y.prog, .p pd b⟩]
    (y.waits = [.bwait b v lm pd sd] → exec (.bwaitTimeout d) s = .next (
      if 1 ≤ past ∧ past ≤ 32767 then ends s sd (bar.result 0) (pred true)
      else if expired then ends s sd (bar.result 1) (pred false) else s)) ∧
    (∀ m, y.waits = [.waita mon lim lm pd sd] → x.monitors.find? (fun k => k.id = mon) = some m →
      exec (.waitaTimeout d) s = .next (
        if m.acked = false then s
        else if m.triggered then ends (s.withDie d fun z => { z with monitors := z.monitors.filter fun k => k.id ≠ mon }) sd 0 (pred true)
        else if lim = 0 then ends s sd 1 (pred false)
        else if expired then ends s sd 2 (pred false) else s)) ∧
    (y.waits = [.fwait mask lm sd] →
      let hit := (x.fwev ||| x.fwnew) &&& BitVec.ofNat 8 mask
      exec (.fwaitTimeout d) s = .next (
        if hit ≠ 0 then ends (s.withDie d fun z => { z with fwev := z.fwev &&& ~~~hit, fwnew := z.fwnew &&& ~~~hit }) sd (hit.setWidth 64) []
        else if expired then ends s sd 256 [] else s)) ∧
    (∃ t, exec (.monitorTrigger d row) s = .next t ∧ t.mem = s.mem ∧ (t.chip.die d).monitors = x.monitors.map fun m =>
      if m.id = row then { m with triggered := true } else m) ∧
    (exec (.firmwareEvent bit) s = .next (s.withChip fun c => { c with dies := c.dies.map fun z =>
      { z with fwnew := z.fwnew ||| BitVec.ofNat 8 (2 ^ bit) } })))

/-! ### The system: SEM, control blocks, shoot-downs, side logs, containment and reset -/

/-- R17, R105, R280, R298, R300, R304, R305, R311, R330, R346, R348, R351, R387, R391. The model's readings: entries dropped at once (log
entry 67), the hold of SLOGREPLAY (log entry 117), the package cycle 0 after a package reset and what it keeps (log entries 91 and 6), what a
port's read of SEM leaves (log entry 116). -/
def Obligations.SystemOps : Prop :=
  (∀ (s : State) (a b d u : Nat) (v : Word) (region : BitVec 16),
    Completes (exec (.rcbld a b) s) ∧ Completes (exec (.atcinv a b) s) ∧ Completes (exec (.slogreplay a b) s) ∧
    Completes (exec (.semRead a) s) ∧ Completes (exec (.semWrite a v) s) ∧ Completes (exec (.controlPortLinkReset a) s) ∧
    Completes (exec (.svDrop a b) s) ∧ Completes (exec (.rcbsync a region) s) ∧ Completes (exec (.rstctlDgo a d) s) ∧
    Completes (exec (.rstctlPgo a) s) ∧ Completes (exec .packageReset s) ∧
    (d < 12 → Completes (exec (.sideLogReplay d u) s) ∧ Completes (exec (.holdTimeout d) s) ∧ Completes (exec (.dieReset d) s))) ∧
  (∀ (s : State) (who port : Nat) (v : Word) (region : BitVec 16),
    let now := s.chip.now
    let freed := (s.withChip fun c => { c with semOwner := 0 }).awaiting now (.firmwareEvent 5)
    let heard := s.awaiting now (.firmwareEvent 6)
    let up := s.chip.stage = 6
    exec (.semRead who) s = .next (if ¬ up then
        if s.chip.berr ≠ 0 ∧ who - 1 = 0 then s.withChip fun c => { c with hostData := SMap.set 0 c.hostData 0 0 } else s
      else
      let t := s.withChip fun c => { c with hostData := SMap.set 0 c.hostData (who - 1) (BitVec.ofNat 512 s.chip.sem.toNat) }
      if s.chip.semOwner = 0 then t.withChip fun c => { c with semOwner := who, semGrants := c.semGrants + 1 } else t) ∧
    exec (.semWrite who v) s = .next (if up ∧ v = 0 ∧ s.chip.semOwner = who ∧ who ≠ 0 then freed else s) ∧
    exec (.controlPortLinkReset port) s = .next (if s.chip.semOwner = 1 + port then freed else s) ∧
    exec (.svDrop who port) s = .next (s.withChip fun c => { c with svdrop := c.svdrop + 1 }) ∧
    (¬ up → exec (.rcbsync port region) s = .next s) ∧
    (up → s.chip.semOwner ≠ 1 + port → exec (.rcbsync port region) s = .next heard) ∧
    (up → s.chip.semOwner = 1 + port → s.blockHeld region.toNat ≠ 0 → exec (.rcbsync port region) s = .next (heard.withChip fun c =>
      { c with loadWait := c.loadWait.filter (fun p => p.1 != region.toNat) ++ [(region.toNat, now + s.blockHeld region.toNat)] })) ∧
    (∀ b, up → s.chip.semOwner = 1 + port → s.blockHeld region.toNat = 0 → s.chip.launches = [] → s.blockAt region.toNat = some b →
      ({ s.chip with regions := SMap.set 0 s.chip.regions region.toNat b } : Chip).blockOk region.toNat = true →
      ∃ t, exec (.rcbsync port region) s = .next t ∧ SMap.get 0 t.chip.regions region.toNat = b ∧
        region.toNat ∈ t.chip.rloaded ∧ (now, Instr.firmwareEvent 6) ∈ t.chip.events ∧
        ((∀ d, ∀ p ∈ (s.chip.die d).dir.buf, p.2.dirty = false) → t.mem = s.mem))) ∧
  (∀ (s : State) (a b : Nat), s.cd < s.chip.dies.length → s.me.dev < (if s.me.view = 1 then 2 else 8) →
    let now := s.chip.now
    (s.sysMode = false → ∀ i ∈ [Instr.rcbld a b, .atcinv a b, .slogreplay a b], exec i s = .next (s.trapped .privilegedOp 0)) ∧
    (s.sysMode = true →
      let n := (s.cx.rs b).toNat % 65536
      (s.chip.semOwner ≠ 4 + s.cd → exec (.rcbld a b) s = .next (s.flying (s.sRes 1 a 1))) ∧
      (s.chip.semOwner = 4 + s.cd → ∃ due, s.blockArrival s.cd n + 64 ≤ due ∧ exec (.rcbld a b) s =
        .next ((s.holding (.rcbld due (s.physReg a) n)).withChip fun c => { c with free := c.free + 1 })) ∧
      (let w := (s.cx.rs (b + 1)).toNat
        let scope (d : Nat) : Prop := match s.me.view with
          | 0 => True
          | 1 => d / 4 = s.me.dev ∨ 8 ≤ d
          | _ => d = s.me.dev ∨ d = 8 + s.me.dev % 4
        let named (d : Nat) : Prop := d < 12 ∧ w.testBit d = true ∧ scope d
        let va := (s.cx.rs b).toNat
        let id := s.chip.nextId
        let silent (d : Nat) : Prop := (s.chip.die d).gated = true ∨ (s.chip.die d).present = false
        (w / 2 ^ 12 % 16 ≠ 0 → exec (.atcinv a b) s = .next (s.trapped .dieMask 0)) ∧
        (w / 2 ^ 12 % 16 = 0 → (∀ d, ¬ named d) → exec (.atcinv a b) s = .next s) ∧
        (w / 2 ^ 12 % 16 = 0 → (∃ d, named d) → s.chip.dies.length = 12 → ∃ t, exec (.atcinv a b) s = .next t ∧ t.mem = s.mem ∧
          t.cx = { s.cx with waits := s.cx.waits ++ [.atcinv id] } ∧
          (∀ d k, d < 12 → (named d → (t.chip.die d).tc k = ((s.chip.die d).tc k).filter fun e =>
              !covers va a (e.page * 2 ^ e.bits) e.bits) ∧ (¬ named d → (t.chip.die d).tc k = (s.chip.die d).tc k)) ∧
          (∀ d, named d → ¬ silent d → (∃ v ∈ t.chip.invals, v.id = id ∧ d ∈ v.left) ∧
            ∃ k, now < k ∧ (k, Instr.msgMg (.invAck id d)) ∈ t.chip.events))) ∧
      (let d := (s.cx.rs b).toNat % 16
        let u := (s.cx.rs b).toNat / 16 % 8
        let l := (s.chip.die d).log u
        exec (.slogreplay a b) s = .next (if d < 12 ∧ u < 3 ∧ l ≠ [] then
          (s.holding (.replay d u (l.map (·.acc)) (s.physReg b))).awaiting now (.sideLogReplay d u)
          else s.flying (s.sRes 1 b 0))))) ∧
  -- a control block is loaded
  (∀ (s : State) (d due reg n : Nat) (b : BitVec 2048), d < s.chip.dies.length → due ≤ s.chip.now → s.chip.launches = [] →
    s.blockHeld n = 0 → s.blockAt n = some b → ({ s.chip with regions := SMap.set 0 s.chip.regions n b } : Chip).blockOk n = true →
    let y := (s.chip.die d).main
    let t := s.after (checkWait d false (.rcbld due reg n))
    SMap.get 0 t.chip.regions n = b ∧ n ∈ t.chip.rloaded ∧ (∀ k, (n, k) ∉ t.chip.loaded) ∧
      (t.chip.die d).main = { y with
        waits := y.waits.filter fun w => w ≠ .rcbld due reg n
        pend := y.pend ++ if reg = 0 then [] else [⟨y.prog, y.prog, .s reg 0⟩] }) ∧
  (∀ (s : State) (d due reg n : Nat), d < s.chip.dies.length → due ≤ s.chip.now → s.blockHeld n ≠ 0 →
    s.after (checkWait d false (.rcbld due reg n)) = s.withDie d fun y => { y with main := { y.main with
      waits := y.main.waits.filter (fun w => w ≠ .rcbld due reg n) ++ [.rcbld (s.chip.now + s.blockHeld n) reg n] } }) ∧
  -- side logs
  (∀ (s : State) (d u : Nat), d < 12 → d < s.chip.dies.length →
    let now := s.chip.now
    let out (rest : List LogEntry) (t : State) : State :=
      let v := t.withDie d fun y => y.setLog u rest
      if rest = [] then v else v.awaiting now (.sideLogReplay d u)
    ((s.chip.die d).log u = [] → exec (.sideLogReplay d u) s = .next s) ∧
    (∀ e rest, (s.chip.die d).log u = e :: rest → (s.chip.die d).logOut = [] →
      (s.chip.acc e.acc = none → exec (.sideLogReplay d u) s = .next (out rest s)) ∧
      (∀ a, s.chip.acc e.acc = some a → a.id = e.acc →
        (e.disc = true → a.node = none → a.launch = none → exec (.sideLogReplay d u) s = .next (out rest (s.withChip fun c => { c with
          accs := c.accs.filter fun b => b.id ≠ a.id }))) ∧
        (e.disc = false → a.stage ≠ .logged → exec (.sideLogReplay d u) s = .next s) ∧
        (e.disc = false → a.stage = .logged → a.kind ∉ [.osend, .send, .nodeRead] → a.fill = none → ∃ t, exec (.sideLogReplay d u) s = .next t ∧
          t.still = s.still ∧ t.whats true = s.whats true)))) ∧
  -- containment
  (∀ (s : State) (d : Nat), d < 12 → d < s.chip.dies.length →
    let x := s.chip.die d
    (s.chip.launchOf d = none → exec (.holdTimeout d) s = .next s) ∧
    (x.trap = none → x.heldFor ≤ x.terms.fbt → exec (.holdTimeout d) s = .next s) ∧
    (∀ l, s.chip.launches = [l] → x.launch = some l.id → l.state ≠ .ended → l.status ≠ 8 → (∀ e, (s.chip.die e).migs = []) →
      ((∃ q, x.trap = some q ∧ q.cls = 'F' ∧ q.code ≠ .holdTimeout) ∨ (x.trap = none ∧ x.terms.fbt < x.heldFor)) →
      ∃ t, exec (.holdTimeout d) s = .next t ∧ (s.chip.now, Instr.completionWord l.id) ∈ t.chip.events ∧
        (∃ k, t.chip.launches = [k] ∧ k.id = l.id ∧ k.status = 8) ∧
        ∀ e, e ∈ l.dies → e < s.chip.dies.length → (s.chip.die e).launch = some l.id →
          let z := t.chip.die e
          z.run = .contained ∧ z.trap = none ∧ z.inShadow = false ∧ z.entries = [] ∧ z.monitors = [] ∧ z.copy.nodes = [] ∧
            z.main.waits = (s.chip.die e).main.waits.filter Wait.isGovernor ∧ z.main.pend = [] ∧ z.main.s = (s.chip.die e).main.s)) ∧
  -- reset
  (∀ (s : State) (port d : Nat),
    let now := s.chip.now
    exec (.rstctlDgo port d) s = .next (if s.chip.stage = 6 ∧ s.chip.semOwner = 1 + port ∧ d < 12 ∧ s.chip.cattrip = none then
      s.awaiting now (.dieReset d) else s) ∧
    exec (.rstctlPgo port) s = .next (if s.chip.stage = 6 ∧ s.chip.semOwner = 1 + port ∧ s.chip.cattrip ≠ some now then
      s.awaiting now .packageReset else s) ∧
    exec (.dieReset 8) s = .next (s.awaiting now .packageReset) ∧
    (d < 12 → d ≠ 8 → s.chip.dies.length = 12 → s.chip.launches = [] → s.chip.accs = [] → s.chip.invals = [] →
      (∀ e, (s.chip.die e).migs = [] ∧ ∀ m ∈ (s.chip.die e).monitors, m.home ≠ d) → s.chip.semOwner ≠ 4 + d →
      ∃ t, exec (.dieReset d) s = .next t ∧ (∀ a, a / 2 ^ 67 ≠ d → t.mem.read a = s.mem.read a) ∧
        (∀ e, e < 12 → SMap.get 0 (t.chip.die e).incs d = (s.chip.die d).inc + 1) ∧
        let x := t.chip.die d
        x.inc = (s.chip.die d).inc + 1 ∧ (∀ k, x.tc k = []) ∧ x.ats = [] ∧ x.entries = [] ∧ x.monitors = [] ∧
          (∀ u, x.log u = []) ∧ x.logOut = [] ∧ (∀ r, (r, d) ∉ t.chip.loaded) ∧ x.dir = (s.chip.die d).dir ∧
          x.hbm0 = (s.chip.die d).hbm0 ∧ x.hbm1 = (s.chip.die d).hbm1 ∧ x.linkst = (s.chip.die d).linkst ∧
          x.regionTable = (s.chip.die d).regionTable) ∧
    (∃ t, exec .packageReset s = .next t ∧ t.chip = { Chip.reset with free := s.chip.free } ∧
      ∀ a, t.mem.read a = if a / 2 ^ 64 % 8 = 6 ∨ a / 2 ^ 64 % 8 = 7 then s.mem.read a else 0))

/-- R49, R50, R117, R274, R284, R288-R295. The model's readings: the accepted or restored tiles, and the bytes of the control state (log entries 9
and 13), the image read in the queue (log entry 74), a vector of house programs alone (log entry 77), a region that is not loaded (log entry
78), a slice of 0 (log entry 82). -/
def Obligations.Launches : Prop :=
  (∀ (s : State) (n : Nat) (sv : BitVec 512), Completes (exec (.start n sv) s) ∧ Completes (exec (.launchPlace n) s) ∧
    Completes (exec (.sliceEnd n) s) ∧ Completes (exec (.contextRestore n) s) ∧ Completes (exec (.completionWord n) s) ∧
    (n < 12 → Completes (exec (.preemptionPoint n) s))) ∧
  (∀ (s : State) (port : Nat) (sv : BitVec 512),
    let c := s.chip
    let v := sv.toNat
    let r := v / 2 ^ 256 % 2 ^ 16
    let view := c.rview r
    let dev := v / 2 ^ 272 % 8
    let entry (d : Nat) : Nat := v / 2 ^ (32 * d) % 2 ^ 32
    let hent (h : Nat) : Nat := v / 2 ^ (448 + 16 * h) % 2 ^ 16
    let phys (d : Nat) : Nat := match view with | 0 => d | 1 => 4 * dev + d | _ => dev
    let used := (List.range 8).filter fun d => entry d ≠ 0xFFFFFFFF
    let houses := (List.range 4).filter fun h => hent h ≠ 0xFFFF
    let dies := used.map phys ++ houses.map (8 + ·)
    let modes := if v / 2 ^ 288 % 2 ^ 16 = 0 then 0x8000 else v / 2 ^ 288 % 2 ^ 16
    let wellFormed := v / 2 ^ 275 % 2 ^ 13 = 0 ∧ v / 2 ^ 304 % 2 ^ 16 = 0 ∧ (view = 0 → dev = 0) ∧ (view = 1 → dev < 2) ∧
      (∀ d ∈ used, d < match view with | 0 => 8 | 1 => 4 | _ => 1) ∧ ¬ (used = [] ∧ houses = [])
    let region := (r = 0 ∨ r ∈ c.rloaded) ∧ c.blockOk r = true ∧ SMap.get 0 c.rstatus r ≠ 4 ∧
      ∀ l ∈ c.launches, l.status = 8 → (if l.placed then l.terms.fdom else c.fdom l.region) ≠ c.fdom r
    let granted := (∀ d ∈ dies, bitOf (c.rdies r) d = true ∧ (c.die d).present = true) ∧ (houses ≠ [] → c.effSys 16 r = true)
    let shaped := ∀ d ∈ used.map phys, ∀ m ∈ List.range 16, bitOf modes m = true → (c.die d).matrix.avail m = true
    let st := if 64 ≤ c.queued then 1 else if ¬ wellFormed then 2 else if ¬ region then 3 else if ¬ granted then 4
      else if ¬ shaped then 5 else if c.rangeClash r dies then 6 else if c.slice r = 0 then 9 else 0
    ((c.stage ≠ 6 ∨ c.cattrip ≠ none) → exec (.start port sv) s = .next s) ∧
    (c.stage = 6 → c.cattrip = none → entry 0 ≠ 0xFFFFFFFE → ∃ t l, exec (.start port sv) s = .next t ∧ l ∈ t.chip.launches ∧
      l.id = c.nextId ∧ l.port = port ∧ l.region = r ∧ l.dev = dev ∧ l.parties = used.map (fun d => (phys d, entry d)) ∧
      l.houses = houses.map (fun h => (8 + h, hent h)) ∧ l.args = v / 2 ^ 320 % 2 ^ 64 ∧ l.cw = v / 2 ^ 384 % 2 ^ 64 / 8 * 8 ∧
      l.arrived = c.now ∧ l.status = st ∧
      (st = 0 → l.state = .queued ∧ ∃ a ∈ t.chip.accs, a.kind = .image ∧ a.launch = some l.id ∧ a.target = .virt (c.imgbase r) 0) ∧
      (st ≠ 0 → l.state = .ended ∧ t.chip.refused = c.refused + 1 ∧ (c.now, Instr.completionWord l.id) ∈ t.chip.events))) ∧
  (∀ (s : State) (id : Nat), (∀ l ∈ s.chip.launches, l.id ≠ id) →
    ∀ i ∈ [Instr.launchPlace id, .sliceEnd id, .contextRestore id, .completionWord id], exec i s = .next s) ∧
  (∀ (s : State) (l : Launch), s.chip.launches.find? (fun k => k.id == l.id) = some l →
    let c := s.chip
    let now := c.now
    let id := l.id
    -- the parties begin
    ((l.state = .ended ∨ l.status = 8) → exec (.launchPlace id) s = .next s) ∧
    (l.path = 3 → l.state = .running → l.status = 0 → now < l.issueAt → exec (.launchPlace id) s = .next s) ∧
    (l.path = 3 → l.state = .running → l.status = 0 → l.issueAt ≤ now → (∀ k ∈ l.wanted c, l.has k = true) → l.dies.Nodup →
      (∀ d ∈ l.dies, d < c.dies.length) →
      ∃ t, exec (.launchPlace id) s = .next t ∧ (now + max 1 (1024 * l.terms.slice), Instr.sliceEnd id) ∈ t.chip.events ∧
        ∀ p ∈ l.parties ++ l.houses, let x := t.chip.die p.1
          x.run = .running ∧ x.main.pc = p.2 ∧ x.main.prog = 0 ∧ x.main.rs 1 = BitVec.ofNat 64 l.args ∧
            x.main.rs 2 = BitVec.ofNat 64 l.dev ∧ (∀ n, 2 < n → n < 64 → x.main.rs n = 0) ∧ x.main.p = 0 ∧ x.main.loops = [] ∧
            x.main.v = [] ∧ x.fpctl = {} ∧ x.ssnum = 0 ∧ x.sbchk = 0 ∧ x.rgnId = l.region ∧ x.terms = l.terms ∧ x.sys = c.effSys 16 l.region ∧
            x.trap = none ∧ x.inShadow = false ∧ x.barriers = [] ∧ x.queues = [] ∧ x.monitors = [] ∧
            x.matrix.fenced = (c.die p.1).matrix.fenced) ∧
    -- slices
    ((l.state ≠ .running ∨ l.sliceAt ≠ now) → exec (.sliceEnd id) s = .next s) ∧
    (l.state = .running → l.sliceAt = now → (∀ k ∈ c.launches, k.runnable = false) →
      exec (.sliceEnd id) s = .next ((s.withChip fun d => { d with launches := d.launches.map fun k => if k.id = id then
        { k with slices := k.slices + 1, sliceAt := now + max 1 (1024 * l.terms.slice) } else k }).awaiting
          (now + max 1 (1024 * l.terms.slice)) (.sliceEnd id))) ∧
    -- restores
    (l.state = .running → l.saved ≠ [] → (∃ a ∈ c.accs, a.kind = .restore ∧ a.launch = some id) →
      exec (.contextRestore id) s = .next (s.awaiting (now + 1) (.contextRestore id))) ∧
    (l.state = .running → l.saved ≠ [] → (∀ a ∈ c.accs, a.kind = .restore → a.launch ≠ some id) → (l.saved.map (·.die)).Nodup →
      (∀ p ∈ l.saved, p.die < c.dies.length) →
      ∃ t, exec (.contextRestore id) s = .next t ∧ t.mem = s.mem ∧ ∀ p ∈ l.saved, let x := t.chip.die p.die
        x.main = { p.ctx with waits := (c.die p.die).main.waits.filter Wait.isGovernor } ∧ x.run = p.run ∧ x.fpctl = p.fpctl ∧ x.sbchk = p.sbchk ∧ x.ssnum = p.ssnum ∧
          x.barriers = p.barriers ∧ x.queues = p.queues ∧ x.xw = p.xw ∧ x.copy = p.copy ∧ x.monitors = p.monitors ∧
          x.mace.kstate = p.mace.kstate ∧ x.boundary = p.boundary ∧ x.terms = p.terms ∧ (∀ n, x.tc n = []) ∧
          x.matrix = { p.matrix with
            dirty := 0, fenced := (c.die p.die).matrix.fenced, spareFor := (c.die p.die).matrix.spareFor,
            tile := if p.kept.getLsbD 108 then p.matrix.tile else { p.matrix.tile with gen := some c.free, rows := [], scales := [] },
            accGen := if fld p.kept.toNat 104 4 = 0 then some c.free else p.matrix.accGen,
            acc := if fld p.kept.toNat 104 4 = 0 then [] else p.matrix.acc }) ∧
    -- completion words
    (l.word = 2 → l.status ≠ 8 → exec (.completionWord id) s = .next (s.withChip fun d => { d with
      launches := d.launches.filter fun k => k.id ≠ id })) ∧
    (l.word = 1 → exec (.completionWord id) s = .next s) ∧
    (l.word = 0 → l.finished c = true → c.launches = [l] → ∃ t, exec (.completionWord id) s = .next t ∧
      (∃ k, t.chip.launches = [k] ∧ k.id = id ∧ k.state = .ended ∧ k.word = 1 ∧ k.status = l.status) ∧
      (∀ d ∈ l.dies, d < c.dies.length → (c.die d).launch = some id → (t.chip.die d).launch = none ∧ (t.chip.die d).run = .idle ∧
        (t.chip.die d).monitors = []) ∧
      ∃ a ∈ t.chip.accs, a.kind = .cword ∧ a.launch = some id ∧ a.target = .virt (l.cw / 64 * 64) 0 ∧
        a.a = BitVec.ofNat 64 (1 + 256 * l.status)) ∧
    (l.word = 0 → l.finished c = false → (∀ e ∈ c.events, e.2 ≠ .completionWord id) →
      exec (.completionWord id) s = .next (s.awaiting (now + 1) (.completionWord id)))) ∧
  (∀ (s : State) (d : Nat), d < 12 → exec (.preemptionPoint d) s = .next (s.withDie d fun x => match x.run with
    | .running => { x with run := .draining }
    | .barrier => { x with run := .draining, main := { x.main with nextIssue := x.main.prog } }
    | _ => x))

/-! ### Events of translation and migration -/

/-- R17, R308-R312, R317, R318, R322, R325, R327-R333, R344, R379, R382, R387, R395. The model's readings: the host's access through the walker and
the writes of the window by their size (log entry 68), what a host reads kept in hostData (log entry 116), a row read and written in one cycle
(log entry 52), what may load a migration's paths (log entry 151). -/
def Obligations.PagesMove : Prop :=
  (∀ (s : State) (d n m : Nat) (b : Bool) (place : HostAddr) (g : Option AtsGrant) (w : Option (BitVec 512 × BitVec 64)),
    Completes (exec (.atsInvalidation n m) s) ∧ Completes (exec (.hostMemoryAccess n place w) s) ∧ (d < 12 →
      Completes (exec (.atsResponse d n g) s) ∧ Completes (exec (.pageRequestGrant d n b) s) ∧
      Completes (exec (.directoryHeaderWrite d) s) ∧ Completes (exec (.directoryRootWrite d n) s) ∧
      Completes (exec (.sweeperVisit d) s) ∧ Completes (exec (.heatWriteback d n) s) ∧ Completes (exec (.cloveStart d n) s) ∧
      Completes (exec (.migrationRoundEnd d n) s) ∧ Completes (exec (.freezeFinalCopy d n) s) ∧
      Completes (exec (.migrationCommit d n) s) ∧ Completes (exec (.freezeTimeout d n) s))) ∧
  (∀ (s : State) (d vpage va size port addr : Nat) (g : AtsGrant) (granted : Bool) (grant : Option AtsGrant)
      (write : Option (BitVec 512 × BitVec 64)), d < 12 → s.chip.dies.length = 12 →
    let now := s.chip.now
    let x := s.chip.die d
    -- caches
    (∀ a : Acc, a.die = d →
      let n := a.cache
      let e : TcEntry := ⟨vpage * 2 ^ 16 / 2 ^ g.bits, g.bits, g.pa, g.rd, g.wr, (List.range 12).map fun t => SMap.get 0 x.incs t⟩;
      ((s.after (fillCaches d vpage g [a])).chip.die d).tc n =
        (e :: x.tc n).take (if n = 0 ∨ n = 1 then 256 else if n = 2 then 64 else 32)) ∧
    ((∀ r ∈ x.ats, r.page ≠ vpage) → exec (.atsResponse d vpage grant) s = .next s) ∧
    ((∀ a ∈ s.chip.accs, a.kind ≠ .osend) → (∃ t, exec (.atsResponse d vpage grant) s = .next t ∧ t.still = s.still) ∧
      ∃ t, exec (.pageRequestGrant d vpage granted) s = .next t ∧ t.still = s.still) ∧
    (∀ r i a, x.ats.find? (fun q => q.page == vpage) = some r → r.marked = false → r.accs = [i] → x.atsWait = [] →
      s.chip.acc i = some a → a.id = i → a.stage = .ats → ∃ t b, exec (.atsResponse d vpage none) s = .next t ∧ t.mem = s.mem ∧
        t.chip.acc i = some b ∧ b.stage = .failed ∧ b.code = .pageFault ∧ b.cause = 1 ∧ (now, Instr.msgRs i) ∈ t.chip.events ∧
        ∀ q ∈ (t.chip.die d).ats, q.page ≠ vpage) ∧
    (∃ t, exec (.pageRequestGrant d vpage granted) s = .next t ∧ ∀ a ∈ s.chip.accs, a.die = d → a.stage = .failed →
      a.code = .pageFault → a.cause = 1 → a.asked = false → a.va / 2 ^ 16 = vpage →
      (now + if granted = true ∨ a.marked = true then 1 else 0, Instr.msgRs a.id) ∈ t.chip.events) ∧
    (∃ t, exec (.atsInvalidation va size) s = .next t ∧ t.mem = s.mem ∧
      (∀ k, (t.chip.die d).tc k = (x.tc k).filter fun e => !covers va size (e.page * 2 ^ e.bits) e.bits) ∧
      (x.gated = false → x.present = true → (∃ v ∈ t.chip.invals, v.id = s.chip.nextId ∧ v.host = true ∧ d ∈ v.left) ∧
        ∃ k, now < k ∧ (k, Instr.msgMg (.invAck s.chip.nextId d)) ∈ t.chip.events)) ∧
    (let p := 8 + port % 2
      let q := port % 2
      let shows (r : Row) : State := s.withChip fun c => { c with hostData := SMap.set 0 c.hostData q r }
      let silent := s.chip.stage ≠ 6
      (silent → exec (.hostMemoryAccess port (.memory addr) write) s =
        .next (if write = none ∧ s.chip.berr ≠ 0 ∧ q = 0 then shows 0 else s)) ∧
      (¬ silent → match (s.chip.die p).regionOf addr with
        | none => exec (.hostMemoryAccess port (.memory addr) write) s = .next s
        | some (h, off) =>
          let a : Acc := { blankAcc s.chip p (if write = none then .hostRd else .hostWr) (.virt addr 0) with
            data := (write.map (·.1)).getD 0, be := (write.map (·.2)).getD 0, region := 0, launch := none, stage := .toWalker,
            dirDie := h, off := off, inc := s.chip.incOf p h };
          exec (.hostMemoryAccess port (.memory addr) write) s = .next (if addr / 2 ^ 56 ≠ s.chip.pkgId then s else
            (s.withChip fun c => { c with accs := c.accs ++ [a], nextId := c.nextId + 1 }).awaiting
              (now + if h = p then 4 else oneWay (s.chip.hop p h)) (.walkerResolve a.id))) ∧
      let reads (a : Nat) : Out := exec (.hostMemoryAccess port (.window a) none) s
      let boot : Nat := s.chip.stage % 16 + 16 * (s.chip.bslot % 2) + 256 * (s.chip.berr % 256) + 65536 * s.chip.abusy.toNat
      (s.chip.stage = 6 →
        reads 0x040 = exec (.semRead (1 + q)) s ∧ reads 0x050 = .next (shows (s.chip.lqstat.setWidth 512)) ∧
        reads 0x058 = .next (shows (BitVec.ofNat 512 boot)) ∧ (addr ∉ [0x040, 0x050, 0x058] → reads addr = .next (shows 0)) ∧
        ∀ (v : BitVec 512) (be : BitVec 64),
          let writes (a : Nat) : Out := exec (.hostMemoryAccess port (.window a) (some (v, be))) s
          writes 0 = (if be = allBytes then exec (.start q v) s else .next s) ∧
          (be.toNat % 256 = 255 → writes 0x040 = exec (.semWrite (1 + q) (rowWord v 0)) s ∧
            writes 0x048 = exec (.rcbsync q (v.setWidth 16)) s ∧ writes 0x060 = exec (.attreq q (v.toNat % 2 ^ 64)) s ∧
            writes 0x068 = if v.getLsbD 5 then exec (.rstctlPgo q) s
              else if v.getLsbD 4 then exec (.rstctlDgo q (v.toNat % 16)) s else .next s) ∧
          (addr ∉ [0, 0x040, 0x048, 0x060, 0x068] → writes addr = .next s)) ∧
      (s.chip.stage ≠ 6 →
        (write ≠ none ∨ s.chip.berr = 0 ∨ q = 1 → exec (.hostMemoryAccess port (.window addr) write) s = .next s) ∧
        (s.chip.berr ≠ 0 → q = 0 → reads 0x058 = .next (shows (BitVec.ofNat 512 boot)) ∧
          (addr ≠ 0x058 → reads addr = .next (shows 0)))))) ∧
  -- the directory
  (∀ (s : State) (d index la : Nat), d < 12 → d < s.chip.dies.length → la % 8 = 0 →
    let now := s.chip.now
    let x := (s.chip.die d).dir
    let word (t : State) (off : Nat) : BitVec 64 := t.tierWord (if d < 8 then kNear else kFar) d off
    let header := (word s 0).toNat
    let same (v w : BitVec 64) (p : Nat → Prop) : Prop := ∀ k, k < 64 → p k → v.getLsbD k = w.getLsbD k
    (∃ t, exec (.directoryHeaderWrite d) s = .next t ∧ t.mem = s.mem ∧
      let y := (t.chip.die d).dir
      y.en = header.testBit 0 ∧ y.sweep.toNat = header / 2 ^ 8 % 2 ^ 24 ∧ y.buf = x.buf ∧
        ∀ i, i < 4096 → SMap.get 0 y.roots i = if header.testBit 0 = true ∧ x.en = false then word s (0x8000 + 8 * i) else SMap.get 0 x.roots i) ∧
    -- the sweeper's next visit by the new SWEEP
    (let n := header / 2 ^ 8 % 2 ^ 24
      let visit (e : Nat × Instr) : Bool := e.2 == .sweeperVisit d
      ∃ t, exec (.directoryHeaderWrite d) s = .next t ∧
        (n = x.sweep.toNat → t.chip.events.filter visit = s.chip.events.filter visit) ∧
        (n ≠ x.sweep.toNat → t.chip.events.filter visit = if n = 0 then [] else [(match s.chip.events.find? visit with
          | some e => max (now + 1) (e.1 + n - x.sweep.toNat)
          | none => now + n, .sweeperVisit d)])) ∧
    (∃ t, exec (.directoryRootWrite d index) s = .next t ∧ t.mem = s.mem ∧
      (t.chip.die d).dir = { x with roots := SMap.set 0 x.roots index (word s (0x8000 + 8 * index)) }) ∧
    ((∀ l, x.leaf la = some l → l.dirty = false ∨ now < l.changed + 4096) → exec (.heatWriteback d la) s = .next s) ∧
    (∀ l, x.leaf la = some l → l.dirty = true → l.changed + 4096 ≤ now →
      let wait := s.chip.leafDelay d la
      (wait ≠ 0 → exec (.heatWriteback d la) s = .next (s.awaiting (now + wait) (.heatWriteback d la))) ∧
      (wait = 0 → ∃ t, exec (.heatWriteback d la) s = .next t ∧
        (s.chip.isDead (leafRow d la) = true → t.mem = s.mem) ∧
        (s.chip.isDead (leafRow d la) = false →
          fld (word t la).toNat 42 4 = fld l.val.toNat 42 4 ∧ same (word t la) (word s la) (fun k => k < 42 ∨ 46 ≤ k)) ∧
        (t.chip.die d).dir.leaf la = some { l with dirty := false })) ∧
    (x.sweep = 0 → exec (.sweeperVisit d) s = .next s) ∧
    (x.sweep ≠ 0 → x.sweepNext d = none → exec (.sweeperVisit d) s = .next (s.awaiting (now + x.sweep.toNat) (.sweeperVisit d))) ∧
    (∀ p, x.sweep ≠ 0 → x.sweepNext d = some (p, la) →
      let lowers (v w : BitVec 64) : Prop := fld w.toNat 42 2 = fld v.toNat 42 2 - 1 ∧ fld w.toNat 44 2 = fld v.toNat 44 2 - 1 ∧
        same v w fun k => k < 42 ∨ 46 ≤ k;
      (x.leaf la = none → s.chip.leafDelay d la ≠ 0 →
        exec (.sweeperVisit d) s = .next (s.awaiting (now + s.chip.leafDelay d la) (.sweeperVisit d))) ∧
      ((x.leaf la = none → s.chip.leafDelay d la = 0) → ∃ t, exec (.sweeperVisit d) s = .next t ∧
        (now + x.sweep.toNat, Instr.sweeperVisit d) ∈ t.chip.events ∧ (t.chip.die d).dir.sweepPos = (p + 1) % 2 ^ 24 ∧
        (x.leaf la = none → if s.chip.isBad (leafRow d la) = true then t.mem = s.mem else lowers (word s la) (word t la)) ∧
        (∀ l, x.leaf la = some l → l.rAt ≠ some now → l.wAt ≠ some now → l.cyc ≠ now →
          t.mem = s.mem ∧ ∃ k, (t.chip.die d).dir.leaf la = some k ∧ lowers l.val k.val)))) ∧
  -- migrations
  (∀ (s : State) (f id : Nat), f < 12 →
    ((∀ m ∈ (s.chip.die f).migs, m.id ≠ id) → ∀ i ∈ [Instr.cloveStart f id, .migrationRoundEnd f id, .freezeFinalCopy f id,
      .migrationCommit f id, .freezeTimeout f id], exec i s = .next s) ∧
    (∀ m, (s.chip.die f).migs.find? (fun k => k.id == id) = some m → m.id = id → (∀ k ∈ (s.chip.die f).migs, k.id = id → k = m) →
      m.h < 12 → s.chip.dies.length = 12 → m.leaf % 8 = 0 → inFrame m.newAddr (memAddr (homeKind m.h) m.h (rowBase m.leaf)) = false →
      s.chip.statusWait = [] →
      let now := s.chip.now
      let old := s.leafVal m.h m.leaf
      let leaf (t : State) : BitVec 64 := t.leafVal m.h m.leaf
      let same (t : State) (p : Nat → Prop) : Prop := ∀ k, k < 64 → p k → (leaf t).getLsbD k = old.getLsbD k
      let becomes (t : State) (q : Mig → Prop) : Prop := ∃ k, (t.chip.die f).migs.find? (fun k => k.id == id) = some k ∧ q k
      let gone (t : State) : Prop := (∀ k ∈ (t.chip.die f).migs, k.id ≠ id) ∧ (now, Instr.nodeRetire m.die m.node) ∈ t.chip.events
      let lines := popN m.dirty.toNat 256
      let copies (t : State) (l : BitVec 256) (r : Nat) : Prop := becomes t fun k => k.copying = l ∧ k.dirty = 0 ∧ k.round = r ∧
        k.began = now ∧ (s.chip.loadedBeside m = false → k.first = now + 540) ∧ (m.newTier = 0 → k.left = 4 * popN l.toNat 256 ∧ k.batches = []) ∧
        (m.newTier ≠ 0 → k.left = 0 ∧ (k.batches.map (·.2.2)).sum = 4 * popN l.toNat 256 ∧ ∀ b ∈ k.batches, now < b.1)
      (∃ t, exec (.cloveStart f id) s = .next t ∧ if s.chip.watched m.oldAddr then gone t else
        fld (leaf t).toNat 6 2 = 1 ∧ same t (fun k => k < 6 ∨ 8 ≤ k) ∧ copies t (BitVec.allOnes 256) m.round ∧
        becomes t fun k => k.state = .moving) ∧
      (m.state ≠ .waiting → ∃ t, exec (.migrationRoundEnd f id) s = .next t ∧
        if lines ≤ 4 then fld (leaf t).toNat 6 2 = 2 ∧ same t (fun k => k < 6 ∨ 8 ≤ k) ∧
            (now + 3600, Instr.freezeTimeout f id) ∈ t.chip.events ∧ (now, Instr.freezeFinalCopy f id) ∈ t.chip.events ∧
            becomes t fun k => k = { m with state := .frozen, froze := now }
        else if m.round = 8 then gone t ∧ fld (leaf t).toNat 6 2 = 0
        else t.mem = s.mem ∧ copies t m.dirty (m.round + 1)) ∧
      (let flying := ∃ a ∈ s.chip.accs, a.stage = .forwarded ∧ inFrame m.oldAddr a.key = true ∧ a.target.isVirt = true;
        (flying → exec (.freezeFinalCopy f id) s = .next (s.awaiting (now + 1) (.freezeFinalCopy f id))) ∧
        (¬ flying → ∃ t, exec (.freezeFinalCopy f id) s = .next t ∧ t.mem = s.mem ∧ copies t m.dirty m.round ∧
          (lines = 0 → m.state = .frozen → (now + 1, Instr.migrationCommit f id) ∈ t.chip.events))) ∧
      (∀ k, let r := m.rows.getD k 0
        let from' := m.oldAddr + 64 * r
        let to' := m.newAddr + 64 * r
        let t := s.after (cloveRow f id k)
        (∀ a ∈ [from', to'], s.chip.isPaused a = false ∧ s.chip.inTraining a = false) →
          (s.chip.isBad from' = true → gone t) ∧ (s.chip.isBad from' = false → s.chip.isDead to' = true → gone t) ∧
          (s.chip.isBad from' = false → s.chip.isDead to' = false → ∀ b, t.mem.read b =
            if to' ≤ b ∧ b < to' + 64 then rowByte (s.mem.row from') (b - to') else s.mem.read b)) ∧
      (∃ t, exec (.migrationCommit f id) s = .next t ∧ gone t ∧ fld (leaf t).toNat 0 2 = m.newTier % 4 ∧
        fld (leaf t).toNat 2 4 = m.newDie % 16 ∧ fld (leaf t).toNat 6 2 = 0 ∧ fld (leaf t).toNat 8 28 = m.newFrame % 2 ^ 28 ∧
        fld (leaf t).toNat 42 4 = 0 ∧ same t (fun k => 36 ≤ k ∧ (k < 42 ∨ 46 ≤ k))) ∧
      (m.state = .frozen → m.froze + 3600 ≤ now → ∃ t, exec (.freezeTimeout f id) s = .next t ∧ gone t ∧ fld (leaf t).toNat 6 2 = 0) ∧
      ((m.state ≠ .frozen ∨ now < m.froze + 3600) → exec (.freezeTimeout f id) s = .next s)))

/-! ### Bring-up, links, attestation and other packages -/

/-- R111, R362, R363, R365-R368, R386-R390. The model's readings: rows from another package wait for those before them (log entry 69), the wheel
marker (log entry 70), the answer to another package (log entry 71), a region's share of a slot (log entry 72), the first rotation (log entry
73), a router entry's next phase (log entry 85), what bring-up reads of the image (log entry 86). -/
def Obligations.BringupOptical : Prop :=
  (∀ (s : State) (d n : Nat) (v : BitVec 64) (k : OptKind), Completes (exec .bringup s) ∧ Completes (exec .discover s) ∧
    Completes (exec (.attreq d n) s) ∧ Completes (exec (.attestationReport n) s) ∧ Completes (exec (.wheelMarker n) s) ∧
    Completes (exec (.slotTableWrite n v) s) ∧ Completes (exec .opticalEpoch s) ∧ Completes (exec (.opticalSlotOpen n) s) ∧
    Completes (exec (.opticalSlotClose n) s) ∧ Completes (exec (.opticalReceive k) s) ∧
    (d < 12 → Completes (exec (.linkDown d n) s) ∧ Completes (exec (.routerEntryWrite d n v) s))) ∧
  -- bring-up and attestation
  (∀ (s : State) (port addr : Nat),
    let c := s.chip
    let now := c.now
    ((c.berr ≠ 0 ∨ (c.stage ≠ 0 ∧ c.stage ≠ 2)) → exec .bringup s = .next s) ∧
    (c.berr = 0 → c.stage = 0 → ∃ t, exec .bringup s = .next t ∧ t.mem = s.mem ∧ t.chip.idKey = BitVec.ofNat 384 identityKey ∧
      t.chip.devid = BitVec.ofNat 384 (devidOf identityKey) ∧ t.chip.bslot = (if s.imgErr 0 = 0 then 0 else 1) ∧
      (s.imgErr 0 ≠ 0 → s.imgErr 1 ≠ 0 → t.chip.stage = 0 ∧ t.chip.berr = s.imgErr 1 ∧ t.chip.events = c.events) ∧
      ((s.imgErr 0 = 0 ∨ s.imgErr 1 = 0) → t.chip.stage = 2 ∧ t.chip.berr = 0 ∧ (now, Instr.discover) ∈ t.chip.events ∧
        (now, Instr.bringup) ∈ t.chip.events)) ∧
    (c.berr = 0 → c.stage = 2 → ∃ t, exec .bringup s = .next t ∧
      let blocks := (s.imgSections c.bslot).filter fun x => x.kind == 3
      let good := 0 ∈ t.chip.rloaded ∧ t.chip.blockOk 0 = true
      (blocks = [] → t.chip.rloaded = c.rloaded ∧ SMap.get 0 t.chip.regions 0 = SMap.get 0 c.regions 0) ∧
      (∀ x, blocks = [x] → t.chip.rloaded = [0] ∧
        SMap.get 0 t.chip.regions 0 = BitVec.ofNat 2048 (s.imgNat c.bslot x.off (min x.len 256))) ∧
      (¬ good → t.chip.stage = 4 ∧ t.chip.berr = 6) ∧
      (good → t.chip.stage = 6 ∧ t.chip.berr = 0 ∧ (now + 1024, Instr.tempSample) ∈ t.chip.events ∧
        (∃ k, now < k ∧ (k, Instr.opticalEpoch) ∈ t.chip.events) ∧ ∀ d, d < 8 → (now + 1800, Instr.powerWindowEnd d) ∈ t.chip.events)) ∧
    (let asks := c.stage = 6 ∧ c.semOwner = 1 + port ∧ c.abusy = false ∧ c.cattrip = none;
      (¬ asks → exec (.attreq port addr) s = .next s) ∧
      (asks → ∃ k, now < k ∧ exec (.attreq port addr) s =
        .next ((s.withChip fun c => { c with abusy := true, free := c.free + 1 }).awaiting k (.attestationReport addr)))) ∧
    (let rows := (List.range ((addr % 64 + 304 + 63) / 64)).map fun r => addr / 64 * 64 + 64 * r
      let held := (rows.map s.paHeld).foldl max 0
      (c.abusy = false → exec (.attestationReport addr) s = .next s) ∧
      (c.abusy = true → held ≠ 0 → exec (.attestationReport addr) s = .next (s.awaiting (now + held) (.attestationReport addr))) ∧
      (c.abusy = true → held = 0 → (∀ d, (c.die d).dir.buf.length < 4000) →
        ∃ t, exec (.attestationReport addr) s = .next t ∧ t.chip.abusy = false ∧
          ∀ a, (∀ r ∈ rows, ∀ p, s.resolvePa r = some p → ¬ (p ≤ a ∧ a < p + 64)) → t.mem.read a = s.mem.read a))) ∧
  -- links
  (∀ (s : State) (p : Nat), exec (.wheelMarker p) s = .next s) ∧
  (∀ (s : State), s.chip.dies.length = 12 → ∃ t, exec .discover s = .next t ∧ t.mem = s.mem ∧
    (∀ d g e h, d < 12 → g < 4 → (s.chip.die d).linkUp g = true → farEnd d g = some (e, h) →
      ∃ n, s.chip.now + 80 ≤ n ∧ (n, Instr.msgMg (.discover e h d)) ∈ t.chip.events) ∧
    ∀ d, d < 12 → (t.chip.die d).present = (s.chip.hops 8 d).isSome ∧
      ∀ e, e < 12 → (t.chip.die d).reach.getLsbD e = (s.chip.hops d e).isSome) ∧
  (∀ (s : State) (d g : Nat), d < 12 → g < 4 → s.chip.dies.length = 12 → ∃ t, exec (.linkDown d g) s = .next t ∧ t.mem = s.mem ∧
    let state (e h : Nat) : Nat := fld (t.chip.die e).linkst.toNat (8 * h) 2;
    state d g = 2 ∧ (∀ e h, h < 4 → peer d g = some e → peer e h = some d → state e h = 2) ∧
    ((∀ h, h < 4 → state d h ≠ 1 ∧ state d h ≠ 3) → (s.chip.now, Instr.dieReset d) ∈ t.chip.events)) ∧
  -- routers and the slot table
  (∀ (s : State) (d n : Nat) (val : BitVec 64),
    let now := s.chip.now
    (d < 12 → exec (.routerEntryWrite d n val) s = .next (s.withDie d fun x => { x with routerNext := SMap.set 0 x.routerNext n val })) ∧
    (let u := s.withChip fun c => { c with slotsNext := SMap.set 0 c.slotsNext n val };
      ((∃ e ∈ s.chip.events, e.2 = .opticalEpoch) → exec (.slotTableWrite n val) s = .next u) ∧
      ((∀ e ∈ s.chip.events, e.2 ≠ .opticalEpoch) → ∃ k, now < k ∧ exec (.slotTableWrite n val) s =
        .next ((u.withChip fun c => { c with free := c.free + 1 }).awaiting k .opticalEpoch))) ∧
    (∃ t, exec .opticalEpoch s = .next t ∧ t.mem = s.mem ∧ t.chip.slots = s.chip.slotsNext ∧ t.chip.slotsNext = s.chip.slotsNext ∧
      t.chip.rotStart = now ∧ t.chip.oslot = none ∧ t.chip.events = (s.chip.events.filter fun e => !isSlotEvent e.2) ++
        (t.chip.rotation.1.map fun p => (now + p.2, Instr.opticalSlotOpen p.1)) ++
        (if t.chip.rotation.2 = 0 then [] else [(now + t.chip.rotation.2, Instr.opticalEpoch)])) ∧
    -- an open slot
    (let e := (SMap.get 0 s.chip.slots n).toNat
      let dest := e % 2 ^ 8
      let dur := e / 2 ^ 32 % 2 ^ 12
      let ports := popN (e / 2 ^ 8 % 2 ^ 24) 24
      let share (l : Option Nat) (r : Nat) : Nat :=
        (match s.chip.launches.find? fun k => some k.id == l with
          | some k => (s.chip.holds k).opt
          | none => s.chip.opt r) * (dur * ports) / 256
      let q := SMap.get [] s.chip.oqueue dest;
      (s.chip.oslot ≠ some n → ∃ t, exec (.opticalSlotOpen n) s = .next t ∧ t.mem = s.mem ∧ t.chip.oslot = some n ∧
        (now + dur, Instr.opticalSlotClose n) ∈ t.chip.events ∧ (s.chip.launches = [] → ∀ r, SMap.get 0 t.chip.osent r ≤ share none r)) ∧
      (s.chip.oslot = some n → SMap.get [] s.chip.oaccs dest = [] → q = [] → exec (.opticalSlotOpen n) s = .next (
        if ∃ e ∈ s.chip.events, e.2 = .opticalSlotClose n ∧ e.1 ≤ now + 1 then s else s.awaiting (now + 1) (.opticalSlotOpen n))) ∧
      (∀ r l, s.chip.oslot = some n → SMap.get [] s.chip.oaccs dest = [] → q = r :: l → ports ≠ 0 →
        SMap.get 0 s.chip.osent r.region < share r.launch r.region → ∃ t a, exec (.opticalSlotOpen n) s = .next t ∧ t.mem = s.mem ∧
          a ∈ t.chip.accs ∧ a.id = r.id ∧ a.kind = .osend ∧ a.die = r.die ∧ a.key = r.addr ∧ a.data = r.data ∧
          (now + 585, Instr.msgWr a.id) ∈ t.chip.events) ∧
      (∀ i a, s.chip.oslot = some n → SMap.get [] s.chip.oaccs dest = [i] → q = [] → ports ≠ 0 → s.chip.acc i = some a →
        a.returns ≠ none → ∃ t, exec (.opticalSlotOpen n) s = .next t ∧ t.mem = s.mem ∧ ∀ b ∈ t.chip.accs, b.id ≠ i) ∧
      ∃ t, exec (.opticalSlotClose n) s = .next t ∧ t.mem = s.mem ∧ t.chip.oslot = none ∧
        SMap.get [] t.chip.oqueue dest = q.map (fun r => { r with stood := false }) ∧
        ∀ k, k < s.chip.dies.length → SMap.get 0 (t.chip.die k).overrun dest =
          SMap.get 0 (s.chip.die k).overrun dest + BitVec.ofNat 16 (q.filter fun r => r.stood && r.die == k).length)) ∧
  -- arrivals from other packages
  (∀ (s : State) (addr src id : Nat) (data : BitVec 512) (be : BitVec 64),
    let c := s.chip
    let now := c.now
    let joins (a : Acc) : State := s.withChip fun c => { c with accs := c.accs ++ [a], nextId := c.nextId + 1 }
    let row : Acc := { blankAcc c 8 .hostWr (.virt addr 0) with data := data, be := be, path := 7, region := 0, launch := none }
    let sent (h : Nat) : Nat := now + if h = 8 then 4 else oneWay (c.hop 8 h);
    ((∃ b, (c.accs.filter isInbound).head? = some b ∧ b.stage ≠ .start) →
      exec (.opticalReceive (.row addr data be)) s = .next (joins row)) ∧
    (∀ h off, (∀ b ∈ c.accs, isInbound b = false ∧ b.id ≠ c.nextId) → (c.die 8).regionOf addr = some (h, off) →
      exec (.opticalReceive (.row addr data be)) s = .next ((joins { row with
        stage := .toWalker, dirDie := h, off := off, inc := c.incOf 8 h }).awaiting (sent h) (.walkerResolve c.nextId))) ∧
    (∀ (fn : Nat) (x y : Word) (back : Option Nat) (k : OptKind) (z : Acc),
      (k, z) ∈ [(OptKind.read addr src, { blankAcc c 8 .hostRd (.virt addr 0) with node := some (src, 0) }),
        (OptKind.atomic addr fn x y back, { blankAcc c 8 .atom (.virt addr 0) with fn := fn, a := x, b := y, node := back.map fun p => (p, 0) }),
        (OptKind.reduce addr fn data, { blankAcc c 8 .red (.virt addr 0) with fn := fn, data := data })] →
      ((c.die 8).regionOf addr = none → exec (.opticalReceive k) s = .next s) ∧
      (∀ h off, (c.die 8).regionOf addr = some (h, off) → exec (.opticalReceive k) s = .next ((joins { z with
        path := 7, region := 0, launch := none, stage := .toWalker, dirDie := h, off := off, inc := c.incOf 8 h, word := addr % 64 / 8
        }).awaiting (sent h) (.walkerResolve c.nextId)))) ∧
    (c.acc id = none → exec (.opticalReceive (.response id data)) s = .next s) ∧
    (∀ a, c.acc id = some a → a.home = none → a.stage = .forwarded → a.entry ≠ none →
      exec (.opticalReceive (.response id data)) s = .next ((s.withChip fun c => { c with accs := c.accs.map fun b =>
        if b.id = id then { b with stage := .performed, data := data } else b }).awaiting now (.msgRs id))))

/-! ### Stacks, power and the debugger -/

/-- R312, R374-R384, R393, R398. The model's readings: TJ sampled, and tripping, at the window's end (log entry 60), the governor's hold of both streams (log
entry 61), how ERR and FAIL of a pattern run agree (log entry 112). -/
def Obligations.StacksPower : Prop :=
  (∀ (s : State) (d k pc n : Nat) (v : BitVec 64) (b : Bool), Completes (exec .tempSample s) ∧ Completes (exec (.hbmCrcRetry n k) s) ∧
    (d < 12 → Completes (exec (.levelChangeApply d k) s) ∧ Completes (exec (.positionWithhold d k) s) ∧
      Completes (exec (.positionReturn d k) s) ∧ Completes (exec (.pcselWrite d k v) s) ∧ Completes (exec (.patctlGo d k v) s) ∧
      Completes (exec (.patternRunDone d k) s) ∧ Completes (exec (.eyectlGo d k v) s) ∧ Completes (exec (.eyeCaptureDone d k) s) ∧
      Completes (exec (.repairWrite d k v) s) ∧ Completes (exec (.liveRepairComplete d k pc n) s) ∧
      Completes (exec (.junctionCattrip d) s) ∧ Completes (exec (.powerWindowEnd d) s) ∧ Completes (exec (.governorHoldEnd d) s) ∧
      Completes (exec (.debuggerHalt d b) s) ∧ Completes (exec (.powerGating d b) s) ∧ Completes (exec (.registerWrite d n v) s))) ∧
  -- stacks
  (∀ (s : State) (d k pc lane : Nat) (val : BitVec 64), d < 8 → k < 2 → s.chip.dies.length = 12 →
    let now := s.chip.now
    let h := (s.chip.die d).stack k
    let v := val.toNat
    let page (f : Hbm → Hbm) : State := s.withDie d fun x => x.modStack k f
    let stack (t : State) : Hbm := (t.chip.die d).stack k
    let spent := h.since < now ∧ (now - h.since) % 8192 = 0;
    -- levels
    (h.next = h.level → exec (.levelChangeApply d k) s = .next s) ∧
    (h.next ≠ h.level →
      let u := (page fun h => { h with level := h.next, since := if h.next = 2 ∨ h.level = 2 then now else h.since }).awaiting now (.firmwareEvent 3)
      exec (.levelChangeApply d k) s = .next (if h.next = 2 then u.awaiting (now + 8192) (.positionWithhold d k)
        else if h.wheld = 0 ∨ h.level ≠ 2 then u else u.awaiting (now + 8192) (.positionReturn d k))) ∧
    (¬ (h.level = 2 ∧ spent ∧ h.wheld < 6) → exec (.positionWithhold d k) s = .next s) ∧
    (h.level = 2 → spent → h.wheld < 6 → exec (.positionWithhold d k) s =
      .next ((page fun h => { h with wheld := h.wheld + 1 }).awaiting (now + 8192) (.positionWithhold d k))) ∧
    (¬ (h.level < 2 ∧ spent ∧ 0 < h.wheld) → exec (.positionReturn d k) s = .next s) ∧
    (h.level < 2 → spent → 0 < h.wheld → exec (.positionReturn d k) s =
      .next ((page fun h => { h with wheld := h.wheld - 1 }).awaiting (now + 8192) (.positionReturn d k))) ∧
    -- training
    (∃ t, exec (.pcselWrite d k val) s = .next t ∧ t.mem = s.mem ∧ (stack t).pcsel = val.setWidth 9 ∧
      (h.stalled = [] → t = page fun h => { h with pcsel := val.setWidth 9 }) ∧
      ∀ i a n j, i ∈ h.stalled → s.chip.acc i = some a → pcOf a.key = some (d, j, n) → ¬ (v.testBit 8 = true ∧ n = v % 256) →
        (now, performEvent a) ∈ t.chip.events ∧ i ∉ (stack t).stalled) ∧
    (let go := v.testBit 0 = true ∧ h.job = none ∧ h.pcsel.toNat.testBit 8 = true
      let len := v / 2 ^ 8 % 2 ^ 8
      let seed := v / 2 ^ 16 % 2 ^ 16
      let ctl := BitVec.ofNat 32 (v / 2 % 2 * 2 + len * 2 ^ 8 + seed * 2 ^ 16);
      (¬ go → exec (.patctlGo d k val) s = .next (page fun h => { h with patctl := ctl })) ∧
      (go → exec (.patctlGo d k val) s = .next ((page fun h => { h with
        patctl := ctl
        job := some (.pattern (h.pcsel.toNat % 256) (v.testBit 1) len (if seed = 0 then 0xACE1 else seed))
        done := false }).awaiting (now + (32 + 8 * (len + 1))) (.patternRunDone d k)))) ∧
    ((∀ n dir len seed, h.job ≠ some (.pattern n dir len seed)) → exec (.patternRunDone d k) s = .next s) ∧
    (∀ n dir len seed, h.job = some (.pattern n dir len seed) → ∃ t fail err, exec (.patternRunDone d k) s = .next t ∧
      t = (page fun h => { h with job := none, done := true, fail := fail, err := err }).withChip (fun c => { c with free := c.free + 1 }) ∧
      (fail = 0 ↔ err = 0) ∧ popN fail.toNat 8 ≤ err.toNat ∧ err.toNat ≤ popN fail.toNat 8 * (8 * (len + 1))) ∧
    (let go := v.testBit 16 = true ∧ h.job = none ∧ h.pcsel.toNat.testBit 8 = true ∧ v % 16 ≤ 8
      let len := v / 2 ^ 8 % 2 ^ 8
      let ctl := BitVec.ofNat 16 (v % 32 + len * 2 ^ 8);
      (¬ go → exec (.eyectlGo d k val) s = .next (page fun h => { h with eyectl := ctl })) ∧
      (go → exec (.eyectlGo d k val) s = .next ((page fun h => { h with
        eyectl := ctl
        job := some (.eye (h.pcsel.toNat % 256) (v % 16) (v.testBit 4) len now)
        edone := false }).awaiting (now + 64 * (32 + 8 * (len + 1))) (.eyeCaptureDone d k)))) ∧
    (∀ n l dir len start, h.job = some (.eye n l dir len start) → start + 64 * (32 + 8 * (len + 1)) ≤ now → h.tapDue = none →
      ∃ t, exec (.eyeCaptureDone d k) s = .next t ∧ t.mem = s.mem ∧
        (stack t).job = none ∧ (stack t).edone = true ∧ (stack t).rdtap = h.rdtap ∧ (stack t).wrtap = h.wrtap ∧
        (stack t).tapAfter = none ∧ (stack t).tapDue = h.tapAfter ∧
        (h.tapAfter ≠ none → (now + 1, Instr.eyeCaptureDone d k) ∈ t.chip.events)) ∧
    ((∀ n l dir len start, h.job = some (.eye n l dir len start) → now < start + 64 * (32 + 8 * (len + 1))) →
      (∀ wr n x, h.tapDue = some (wr, n, x) → exec (.eyeCaptureDone d k) s = .next (page fun h => { h with
        tapDue := none, rdtap := if wr = true then h.rdtap else SMap.set 0 h.rdtap n x,
        wrtap := if wr = true then SMap.set 0 h.wrtap n x else h.wrtap })) ∧
      (h.tapDue = none → exec (.eyeCaptureDone d k) s = .next s)) ∧
    (h.pcsel.toNat.testBit 8 = false → exec (.repairWrite d k val) s = .next s) ∧
    (h.pcsel.toNat.testBit 8 = true → exec (.repairWrite d k val) s = .next (page fun h => { h with
      repair := SMap.set 0 h.repair (h.pcsel.toNat % 256) (BitVec.ofNat 6 (v % 8 + v / 16 % 4 * 16)) })) ∧
    -- live repair
    (∃ t, exec (.liveRepairComplete d k pc lane) s = .next t ∧ t.mem = s.mem ∧
      let r := SMap.get 0 (stack t).repair pc
      r.toNat % 8 = lane % 8 ∧ r.getLsbD 3 = false ∧ r.getLsbD 4 = true ∧ r.getLsbD 5 = (SMap.get 0 h.repair pc).getLsbD 5 ∧
      (∀ n, n ≠ pc → SMap.get 0 (stack t).repair n = SMap.get 0 h.repair n) ∧
      (∀ n, SMap.get 0 (stack t).crccnt n = if n / 9 = pc then 0 else SMap.get 0 h.crccnt n) ∧
      ∀ p, p ∈ (stack t).pause ↔ p ∈ h.pause ∧ p.1 ≠ pc)) ∧
  -- CRC
  (∀ (s : State) (i lane : Nat), (∀ x ∈ s.chip.dies, ∀ m ∈ x.migs, m.id ≠ i) →
    let c := s.chip
    (c.acc i = none → exec (.hbmCrcRetry i lane) s = .next s) ∧
    (∀ a, c.acc i = some a → pcOf a.key = none → exec (.hbmCrcRetry i lane) s = .next s) ∧
    (∀ a d k pc, c.acc i = some a → pcOf a.key = some (d, k, pc) → k < 2 → d < c.dies.length → ∃ t b, exec (.hbmCrcRetry i lane) s = .next t ∧
      t.mem = s.mem ∧ t.chip.acc i = some b ∧
      let h := (c.die d).stack k
      let n := (SMap.get 0 h.crccnt (9 * pc + lane)).toNat
      let counts := ¬ (h.pcsel.toNat.testBit 8 = true ∧ h.pcsel.toNat % 256 = pc)
      let repairs := counts ∧ n < h.crcth.toNat ∧ h.crcth.toNat ≤ min 65535 (n + 1) ∧ (SMap.get 0 h.repair pc).getLsbD 5 = false
      (SMap.get 0 ((t.chip.die d).stack k).crccnt (9 * pc + lane) = if counts then
          BitVec.ofNat 16 (min 65535 (n + 1)) else BitVec.ofNat 16 n) ∧
      (repairs → (c.now, Instr.firmwareEvent 4) ∈ t.chip.events) ∧
      (¬ repairs → a.retries < 4 → b = { a with retries := a.retries + 1 } ∧ ∀ x, (x, Instr.msgRd i) ∈ c.events → (x + 64, Instr.msgRd i) ∈ t.chip.events) ∧
      (4 ≤ a.retries → (c.now, Instr.msgRs i) ∈ t.chip.events ∧ b.stage = .failed ∧ b.code = .uncorrectable ∧
        (¬ repairs → b = { a with stage := .failed, code := .uncorrectable, cause := 0 })))) ∧
  -- temperature
  (∀ (s : State), s.chip.dies.length = 12 → ∃ t, exec .tempSample s = .next t ∧ t.mem = s.mem ∧
    (s.chip.now + 1024, Instr.tempSample) ∈ t.chip.events ∧ ∀ d k, d < 8 → k < 2 →
      let old := (s.chip.die d).stack k
      let h := (t.chip.die d).stack k
      (∀ l, l < 16 →
        let prev := SMap.get 0 old.layer l
        let temp := SMap.get 0 h.temp l
        let level := SMap.get 0 h.layer l
        temp ≤ 255 ∧ level ≤ h.next ∧ (level = 3 ↔ prev = 3 ∨ 105 ≤ temp) ∧
          (level ≠ 3 → (level = 2 ↔ 95 ≤ temp ∨ (prev = 2 ∧ 93 ≤ temp)) ∧
            (level = 0 ↔ temp < 83 ∨ (temp < 85 ∧ prev = 0)))) ∧
      (h.next = 0 ∨ ∃ l, l < 16 ∧ SMap.get 0 h.layer l = h.next) ∧ h.level = old.level ∧ h.wheld = old.wheld ∧
      (h.next = 3 → t.chip.cattrip ≠ none) ∧
      (h.next ≠ 3 → h.next ≠ old.level → ((s.chip.now / 128 + 1) * 128, Instr.levelChangeApply d k) ∈ t.chip.events)) ∧
  -- power, and the switches of a die
  (∀ (s : State) (d off : Nat) (val : BitVec 64) (on : Bool), d < 12 → d < s.chip.dies.length →
    let now := s.chip.now
    let x := s.chip.die d
    (s.chip.cattrip ≠ none → exec (.junctionCattrip d) s = .next s) ∧
    (s.chip.cattrip = none → exec (.junctionCattrip d) s = .next (s.withChip fun c => { c with cattrip := some now })) ∧
    (∃ t, exec (.powerWindowEnd d) s = .next t ∧ t.mem = s.mem ∧ (now + 1800, Instr.powerWindowEnd d) ∈ t.chip.events ∧
      let y := t.chip.die d
      y.power.cap = x.power.cap ∧ y.power.govcyc = x.power.govcyc ∧
      (y.power.pwr.toNat ≤ 10 * x.power.cap.toNat → y.main = x.main) ∧
      (10 * x.power.cap.toNat < y.power.pwr.toNat → y.main = { x.main with waits := x.main.waits ++ [.governor (now + 64)] } ∧
        (now + 64, Instr.governorHoldEnd d) ∈ t.chip.events) ∧
      (115 ≤ y.power.tj.toNat → (now, Instr.junctionCattrip d) ∈ t.chip.events)) ∧
    (∃ t, exec (.governorHoldEnd d) s = .next t ∧ t.mem = s.mem ∧ t.chip.events = s.chip.events ∧ ∀ w,
      (w ∈ (t.chip.die d).main.waits ↔ w ∈ x.main.waits ∧ ∀ n, w = .governor n → now < n) ∧
      (w ∈ (t.chip.die d).shadow.waits ↔ w ∈ x.shadow.waits ∧ ∀ n, w = .governor n → now < n)) ∧
    exec (.debuggerHalt d on) s = .next (s.withDie d fun x => { x with halted := on }) ∧
    exec (.powerGating d false) s = .next (s.withDie d fun x => { x with gated := false }) ∧
    (∃ t, exec (.powerGating d true) s = .next t ∧ t.mem = s.mem ∧ (t.chip.die d).gated = true ∧ (∀ n, (t.chip.die d).tc n = []) ∧
      ∀ v ∈ t.chip.invals, d ∉ v.left) ∧
    -- the device pages
    (off < 0x1040 ∨ (off % 8 = 0 ∧ 0x1840 ≤ off ∧ off < 0x1900) → exec (.registerWrite d off val) s = .next s) ∧
    (0x1040 ≤ off → off < 0x1840 → exec (.registerWrite d off val) s = .next (s.awaiting now (.routerEntryWrite d ((off - 0x1040) / 8) val))) ∧
    (0x1900 ≤ off → off < 0x1B00 → exec (.registerWrite d off val) s = .next (
      if d = 8 then s.awaiting now (.slotTableWrite ((off - 0x1900) / 8) val) else s)) ∧
    (8 ≤ d → 0x2000 ≤ off → exec (.registerWrite d off val) s = .next s) ∧
    (d < 8 → exec (.registerWrite d 0x4008 val) s = .next (s.withDie d fun x => { x with
      power := { x.power with cap := BitVec.ofNat 12 (min 320 (val.toNat % 2 ^ 12)) } })) ∧
    (d < 8 → (off = 0x4000 ∨ 0x4010 ≤ off) → exec (.registerWrite d off val) s = .next s) ∧
    (d < 8 → ∀ k, k < 2 →
      let reg (n : Nat) : Instr := .registerWrite d (0x2000 + 0x1000 * k + n) val
      let page (f : Hbm → Hbm) : Out := .next (s.withDie d fun x => x.modStack k f)
      exec (reg 0) s = .next s ∧
      exec (reg 0x008) s = .next (s.awaiting now (.pcselWrite d k val)) ∧
      exec (reg 0x010) s = page (fun h => { h with crcth := val.setWidth 16 }) ∧
      exec (reg 0x018) s = .next (s.awaiting now (.patctlGo d k val)) ∧
      exec (reg 0x020) s = .next s ∧
      exec (reg 0x028) s = .next (s.awaiting now (.eyectlGo d k val)) ∧
      exec (reg 0x030) s = .next s ∧
      (∀ l, l < 16 → exec (reg (0x100 + 8 * l)) s = .next s) ∧
      exec (reg 0x300) s = .next (s.awaiting now (.repairWrite d k val)) ∧
      (∀ l, l < 9 →
        let h := x.stack k
        let pc := h.pcsel.toNat % 256
        let repairs := (SMap.get 0 h.crccnt (9 * pc + l)).toNat < h.crcth.toNat ∧ h.crcth.toNat ≤ val.toNat % 2 ^ 16 ∧
          h.pcsel.toNat.testBit 8 = false ∧ (SMap.get 0 h.repair pc).getLsbD 5 = false
        (¬ repairs → exec (reg (0x308 + 8 * l)) s = page fun h => { h with
          crccnt := SMap.set 0 h.crccnt (9 * pc + l) (val.setWidth 16) }) ∧
        (repairs → ∃ t, exec (reg (0x308 + 8 * l)) s = .next t ∧ (now, Instr.firmwareEvent 4) ∈ t.chip.events ∧
          SMap.get 0 ((t.chip.die d).stack k).crccnt (9 * pc + l) = val.setWidth 16)) ∧
      (∀ l, l < 9 → (x.stack k).job = none →
        let due (wr : Bool) : Option (Bool × Nat × BitVec 6) :=
          (x.stack k).tapDue.filter fun p => ¬ (p.1 = wr ∧ p.2.1 = 9 * ((x.stack k).pcsel.toNat % 256) + l)
        (exec (reg (0x200 + 8 * l)) s = if (x.stack k).pcsel.toNat.testBit 8 = true then
          page fun h => { h with tapDue := due false, rdtap := SMap.set 0 h.rdtap (9 * (h.pcsel.toNat % 256) + l) (val.setWidth 6) } else .next s) ∧
        (exec (reg (0x280 + 8 * l)) s = if (x.stack k).pcsel.toNat.testBit 8 = true then
          page fun h => { h with tapDue := due true, wrtap := SMap.set 0 h.wrtap (9 * (h.pcsel.toNat % 256) + l) (val.setWidth 6) } else .next s))))
end

