-- ==== Sys2Proof/Laws/Memory.lean ====
section
/-!
SUPPORT. Memory: what a byte reads as after each operation, and that every operation keeps the canonical form.
-/

namespace Sys2Proof.Machine

variable (m : Memory) (a b : Nat) (x : BitVec 8)

/-! ### The canonical form -/

/-- The first address of a memory in canonical form lies above the bound. -/
def pastLo (lo : Option Nat) (a : Nat) : Prop := match lo with | none => True | some l => l < a

theorem pastLo_trans {lo : Option Nat} (h : pastLo lo b) (k : b < a) : pastLo lo a := by
  cases lo with
  | none => trivial
  | some l => exact Nat.lt_trans h k

theorem Memory.wfFrom_cons (lo : Option Nat) :
    Memory.wfFrom ((a, x) :: m) lo = true ↔ pastLo lo a ∧ x ≠ 0 ∧ m.wfFrom (some a) = true := by
  cases lo <;> simp [Memory.wfFrom, pastLo, and_assoc]

/-- A memory that is well formed above `b` is so above every smaller bound. -/
theorem Memory.wfFrom_mono (lo : Option Nat) (h : m.wfFrom (some b) = true) (k : pastLo lo b ∨ lo = none) :
    m.wfFrom lo = true := by
  cases m with
  | nil => rfl
  | cons p m =>
    obtain ⟨c, y⟩ := p
    rw [Memory.wfFrom_cons] at h ⊢
    refine ⟨?_, h.2.1, h.2.2⟩
    rcases k with k | rfl
    · exact pastLo_trans c b k h.1
    · trivial

/-- Below its first address, a memory in canonical form lists nothing. -/
theorem Memory.read_above (lo : Option Nat) (h : m.wfFrom lo = true) (k : ∀ l, lo = some l → a ≤ l) (n : lo ≠ none) :
    m.read a = 0 := by
  induction m generalizing lo with
  | nil => rfl
  | cons p m ih =>
    obtain ⟨c, y⟩ := p
    obtain ⟨l, rfl⟩ := Option.ne_none_iff_exists'.mp n
    rw [Memory.wfFrom_cons] at h
    have hc : l < c := h.1
    have ha : a ≤ l := k l rfl
    simp only [Memory.read]
    rw [if_neg (by omega)]
    exact ih (some c) h.2.2 (fun _ e => by cases e; omega) (by simp)

/-- Dropping an address keeps the canonical form. -/
theorem Memory.drop_wfFrom (lo : Option Nat) (h : m.wfFrom lo = true) : (m.drop a).wfFrom lo = true := by
  induction m generalizing lo with
  | nil => rfl
  | cons p m ih =>
    obtain ⟨c, y⟩ := p
    rw [Memory.wfFrom_cons] at h
    simp only [Memory.drop]
    split
    · exact Memory.wfFrom_mono m c lo h.2.2 (.inl h.1)
    · rw [Memory.wfFrom_cons]
      exact ⟨h.1, h.2.1, ih (some c) h.2.2⟩

/-- Listing a byte that is not listed keeps the canonical form. -/
theorem Memory.insert_wfFrom (lo : Option Nat) (h : m.wfFrom lo = true) (n : ∀ p ∈ m, p.1 ≠ a) (k : pastLo lo a) (z : x ≠ 0) :
    (m.insert a x).wfFrom lo = true := by
  induction m generalizing lo with
  | nil => exact (Memory.wfFrom_cons [] a x lo).mpr ⟨k, z, rfl⟩
  | cons p m ih =>
    obtain ⟨c, y⟩ := p
    rw [Memory.wfFrom_cons] at h
    simp only [Memory.insert]
    split
    · rename_i l
      rw [Memory.wfFrom_cons, Memory.wfFrom_cons]
      exact ⟨k, z, l, h.2.1, h.2.2⟩
    · rename_i l
      rw [Memory.wfFrom_cons]
      have hc : c ≠ a := n (c, y) (by simp)
      exact ⟨h.1, h.2.1, ih (some c) h.2.2 (fun p hp => n p (by simp [hp])) (by simp [pastLo]; omega)⟩

/-- A dropped address is not listed. -/
theorem Memory.drop_notMem (lo : Option Nat) (h : m.wfFrom lo = true) : ∀ p ∈ m.drop a, p.1 ≠ a := by
  induction m generalizing lo with
  | nil => simp [Memory.drop]
  | cons p m ih =>
    obtain ⟨c, y⟩ := p
    rw [Memory.wfFrom_cons] at h
    simp only [Memory.drop]
    split
    · rename_i e
      subst e
      have low : ∀ (m : Memory) (l : Nat), m.wfFrom (some l) = true → ∀ p ∈ m, l < p.1 := by
        intro m
        induction m with
        | nil => simp
        | cons q m im =>
          intro l w p hp
          obtain ⟨d, z⟩ := q
          rw [Memory.wfFrom_cons] at w
          have hd : l < d := w.1
          rcases List.mem_cons.mp hp with rfl | hp
          · exact hd
          · exact Nat.lt_trans hd (im d w.2.2 p hp)
      intro p hp
      have := low m c h.2.2 p hp
      omega
    · rename_i e
      intro p hp
      rcases List.mem_cons.mp hp with rfl | hp
      · exact e
      · exact ih (some c) h.2.2 p hp

/-- Writing a byte keeps the canonical form. -/
theorem Memory.write_wf (h : m.wf = true) : (m.write a x).wf = true := by
  unfold Memory.wf at h ⊢
  unfold Memory.write
  split
  · exact Memory.drop_wfFrom m a none h
  · rename_i z
    exact Memory.insert_wfFrom _ a x none (Memory.drop_wfFrom m a none h) (Memory.drop_notMem m a none h) trivial z

/-- Writing some bytes of a row keeps the canonical form. -/
theorem Memory.putFrom_wf (w : MWrite) (n : Nat) (h : m.wf = true) : (m.putFrom w n).wf = true := by
  induction n with
  | zero => exact h
  | succ n ih =>
    simp only [Memory.putFrom]
    split
    · exact Memory.write_wf _ _ _ ih
    · exact ih

/-- A row write keeps the canonical form. -/
theorem Memory.put_wf (w : MWrite) (h : m.wf = true) : (m.put w).wf = true := Memory.putFrom_wf m w 64 h

/-- Row writes keep the canonical form. -/
theorem Memory.putAll_wf (ws : List MWrite) (h : m.wf = true) : (m.putAll ws).wf = true := by
  unfold Memory.putAll
  induction ws generalizing m with
  | nil => exact h
  | cons w ws ih => exact ih (m.put w) (Memory.put_wf m w h)

/-! ### What a byte reads as -/

theorem Memory.drop_read (lo : Option Nat) (h : m.wfFrom lo = true) : (m.drop a).read b = if b = a then 0 else m.read b := by
  induction m generalizing lo with
  | nil => simp [Memory.drop, Memory.read]
  | cons p m ih =>
    obtain ⟨c, y⟩ := p
    rw [Memory.wfFrom_cons] at h
    simp only [Memory.drop]
    split
    · rename_i e
      subst e
      by_cases k : b = c
      · subst k
        simpa using Memory.read_above m b (some b) h.2.2 (fun _ e => by cases e; omega) (by simp)
      · simp [Memory.read, k, Ne.symm k]
    · rename_i e
      simp only [Memory.read]
      by_cases k : c = b
      · subst k; simp [e]
      · simp only [k, if_false]; exact ih (some c) h.2.2

theorem Memory.insert_read (lo : Option Nat) (h : m.wfFrom lo = true) (n : ∀ p ∈ m, p.1 ≠ a) :
    (m.insert a x).read b = if b = a then x else m.read b := by
  induction m generalizing lo with
  | nil => simp [Memory.insert, Memory.read, eq_comm]
  | cons p m ih =>
    obtain ⟨c, y⟩ := p
    rw [Memory.wfFrom_cons] at h
    have hc : c ≠ a := n (c, y) (by simp)
    simp only [Memory.insert]
    split
    · by_cases k : b = a
      · subst k; simp [Memory.read]
      · simp [Memory.read, k, Ne.symm k]
    · simp only [Memory.read]
      by_cases k : c = b
      · subst k; simp [hc]
      · simp only [k, if_false]; exact ih (some c) h.2.2 (fun p hp => n p (by simp [hp]))

/-- A byte just written reads as written, and every other byte as before. -/
theorem Memory.write_read (h : m.wf = true) : (m.write a x).read b = if b = a then x else m.read b := by
  unfold Memory.wf at h
  unfold Memory.write
  split
  · rename_i z; subst z; exact Memory.drop_read m a b none h
  · rw [Memory.insert_read _ a b x none (Memory.drop_wfFrom m a none h) (Memory.drop_notMem m a none h),
      Memory.drop_read m a b none h]
    split <;> rfl

theorem Memory.putFrom_read (w : MWrite) (n : Nat) (h : m.wf = true) :
    (m.putFrom w n).read b =
      if w.addr ≤ b ∧ b < w.addr + n ∧ w.be.getLsbD (b - w.addr) = true then rowByte w.data (b - w.addr) else m.read b := by
  induction n with
  | zero => simp [Memory.putFrom]; omega
  | succ n ih =>
    simp only [Memory.putFrom]
    split
    · rename_i e
      rw [Memory.write_read _ _ _ _ (Memory.putFrom_wf m w n h), ih]
      by_cases k : b = w.addr + n
      · subst k; simp [e]
      · rw [if_neg k]
        by_cases j : w.addr ≤ b ∧ b < w.addr + n ∧ w.be.getLsbD (b - w.addr) = true
        · rw [if_pos j, if_pos ⟨j.1, by omega, j.2.2⟩]
        · rw [if_neg j, if_neg (fun q => j ⟨q.1, by omega, q.2.2⟩)]
    · rename_i e
      rw [ih]
      by_cases k : b = w.addr + n
      · subst k; simp [e]
      · by_cases j : w.addr ≤ b ∧ b < w.addr + n ∧ w.be.getLsbD (b - w.addr) = true
        · rw [if_pos j, if_pos ⟨j.1, by omega, j.2.2⟩]
        · rw [if_neg j, if_neg (fun q => j ⟨q.1, by omega, q.2.2⟩)]

/-- After a row write the enabled bytes of the row read as written, and every other byte reads as before. -/
theorem Memory.put_read (w : MWrite) (h : m.wf = true) :
    (m.put w).read b =
      if w.addr ≤ b ∧ b < w.addr + 64 ∧ w.be.getLsbD (b - w.addr) = true then rowByte w.data (b - w.addr) else m.read b :=
  Memory.putFrom_read m b w 64 h

/-- Row writes in order: the first, then the others. -/
@[simp] theorem Memory.putAll_nil : m.putAll [] = m := rfl
@[simp] theorem Memory.putAll_cons (w : MWrite) (ws : List MWrite) : m.putAll (w :: ws) = (m.put w).putAll ws := rfl
theorem Memory.putAll_append (v w : List MWrite) : m.putAll (v ++ w) = (m.putAll v).putAll w := by
  unfold Memory.putAll; rw [List.foldl_append]

end Sys2Proof.Machine
end

