-- ==== Sys2Proof/Laws/State.lean ====
section
/-!
SUPPORT. What each field of the state is after each named update of it: one lemma per field and update.
-/

namespace Sys2Proof.Machine

variable (c : Chip) (x : Die) (y : Ctx) (s : State)

/-! ### Changing one die leaves every other field of the package -/

@[simp] theorem Chip.modDie_now (d : Nat) (f : Die → Die) : (c.modDie d f).now = c.now := rfl
@[simp] theorem Chip.modDie_turn (d : Nat) (f : Die → Die) : (c.modDie d f).turn = c.turn := rfl
@[simp] theorem Chip.modDie_events (d : Nat) (f : Die → Die) : (c.modDie d f).events = c.events := rfl
@[simp] theorem Chip.modDie_undo (d : Nat) (f : Die → Die) : (c.modDie d f).undo = c.undo := rfl
@[simp] theorem Chip.modDie_served (d : Nat) (f : Die → Die) : (c.modDie d f).served = c.served := rfl
@[simp] theorem Chip.modDie_free (d : Nat) (f : Die → Die) : (c.modDie d f).free = c.free := rfl
@[simp] theorem Chip.modDie_bad (d : Nat) (f : Die → Die) : (c.modDie d f).bad = c.bad := rfl
@[simp] theorem Chip.modDie_nextId (d : Nat) (f : Die → Die) : (c.modDie d f).nextId = c.nextId := rfl
@[simp] theorem Chip.modDie_cur (d : Nat) (f : Die → Die) : (c.modDie d f).cur = c.cur := rfl
@[simp] theorem Chip.modDie_accs (d : Nat) (f : Die → Die) : (c.modDie d f).accs = c.accs := rfl
@[simp] theorem Chip.modDie_launches (d : Nat) (f : Die → Die) : (c.modDie d f).launches = c.launches := rfl
@[simp] theorem Chip.modDie_refused (d : Nat) (f : Die → Die) : (c.modDie d f).refused = c.refused := rfl
@[simp] theorem Chip.modDie_svdrop (d : Nat) (f : Die → Die) : (c.modDie d f).svdrop = c.svdrop := rfl
@[simp] theorem Chip.modDie_semOwner (d : Nat) (f : Die → Die) : (c.modDie d f).semOwner = c.semOwner := rfl
@[simp] theorem Chip.modDie_semGrants (d : Nat) (f : Die → Die) : (c.modDie d f).semGrants = c.semGrants := rfl
@[simp] theorem Chip.modDie_hostData (d : Nat) (f : Die → Die) : (c.modDie d f).hostData = c.hostData := rfl
@[simp] theorem Chip.modDie_rtbase (d : Nat) (f : Die → Die) : (c.modDie d f).rtbase = c.rtbase := rfl
@[simp] theorem Chip.modDie_regions (d : Nat) (f : Die → Die) : (c.modDie d f).regions = c.regions := rfl
@[simp] theorem Chip.modDie_rloaded (d : Nat) (f : Die → Die) : (c.modDie d f).rloaded = c.rloaded := rfl
@[simp] theorem Chip.modDie_rstatus (d : Nat) (f : Die → Die) : (c.modDie d f).rstatus = c.rstatus := rfl
@[simp] theorem Chip.modDie_statusWait (d : Nat) (f : Die → Die) : (c.modDie d f).statusWait = c.statusWait := rfl
@[simp] theorem Chip.modDie_loadWait (d : Nat) (f : Die → Die) : (c.modDie d f).loadWait = c.loadWait := rfl
@[simp] theorem Chip.modDie_records (d : Nat) (f : Die → Die) : (c.modDie d f).records = c.records := rfl
@[simp] theorem Chip.modDie_loaded (d : Nat) (f : Die → Die) : (c.modDie d f).loaded = c.loaded := rfl
@[simp] theorem Chip.modDie_stage (d : Nat) (f : Die → Die) : (c.modDie d f).stage = c.stage := rfl
@[simp] theorem Chip.modDie_bslot (d : Nat) (f : Die → Die) : (c.modDie d f).bslot = c.bslot := rfl
@[simp] theorem Chip.modDie_berr (d : Nat) (f : Die → Die) : (c.modDie d f).berr = c.berr := rfl
@[simp] theorem Chip.modDie_abusy (d : Nat) (f : Die → Die) : (c.modDie d f).abusy = c.abusy := rfl
@[simp] theorem Chip.modDie_imageHash (d : Nat) (f : Die → Die) : (c.modDie d f).imageHash = c.imageHash := rfl
@[simp] theorem Chip.modDie_devid (d : Nat) (f : Die → Die) : (c.modDie d f).devid = c.devid := rfl
@[simp] theorem Chip.modDie_idKey (d : Nat) (f : Die → Die) : (c.modDie d f).idKey = c.idKey := rfl
@[simp] theorem Chip.modDie_cattrip (d : Nat) (f : Die → Die) : (c.modDie d f).cattrip = c.cattrip := rfl
@[simp] theorem Chip.modDie_pkgId (d : Nat) (f : Die → Die) : (c.modDie d f).pkgId = c.pkgId := rfl
@[simp] theorem Chip.modDie_npkg (d : Nat) (f : Die → Die) : (c.modDie d f).npkg = c.npkg := rfl
@[simp] theorem Chip.modDie_slots (d : Nat) (f : Die → Die) : (c.modDie d f).slots = c.slots := rfl
@[simp] theorem Chip.modDie_slotsNext (d : Nat) (f : Die → Die) : (c.modDie d f).slotsNext = c.slotsNext := rfl
@[simp] theorem Chip.modDie_oslot (d : Nat) (f : Die → Die) : (c.modDie d f).oslot = c.oslot := rfl
@[simp] theorem Chip.modDie_osent (d : Nat) (f : Die → Die) : (c.modDie d f).osent = c.osent := rfl
@[simp] theorem Chip.modDie_oqueue (d : Nat) (f : Die → Die) : (c.modDie d f).oqueue = c.oqueue := rfl
@[simp] theorem Chip.modDie_owait (d : Nat) (f : Die → Die) : (c.modDie d f).owait = c.owait := rfl
@[simp] theorem Chip.modDie_oaccs (d : Nat) (f : Die → Die) : (c.modDie d f).oaccs = c.oaccs := rfl
@[simp] theorem Chip.modDie_rotStart (d : Nat) (f : Die → Die) : (c.modDie d f).rotStart = c.rotStart := rfl
@[simp] theorem Chip.modDie_invals (d : Nat) (f : Die → Die) : (c.modDie d f).invals = c.invals := rfl

/-- A die that exists reads as changed. -/
@[simp] theorem Chip.modDie_same (d : Nat) (f : Die → Die) (h : d < c.dies.length) : (c.modDie d f).die d = f (c.die d) := by
  simp [Chip.modDie, Chip.die, h]
/-- Every other die reads as before. -/
@[simp] theorem Chip.modDie_other (d e : Nat) (f : Die → Die) (h : d ≠ e) : (c.modDie d f).die e = c.die e := by
  simp [Chip.modDie, Chip.die, List.getD_eq_getElem?_getD, h]
/-- The package keeps its dies. -/
@[simp] theorem Chip.modDie_length (d : Nat) (f : Die → Die) : (c.modDie d f).dies.length = c.dies.length := by simp [Chip.modDie]
/-- Changing a die into itself changes nothing. -/
theorem Chip.modDie_id (d : Nat) : (c.modDie d fun x => x) = c := by
  have h : c.dies.set d (c.die d) = c.dies := by
    apply List.ext_getElem?
    intro i
    by_cases e : d = i
    · subst e
      by_cases l : d < c.dies.length <;> simp [Chip.die, List.getD_eq_getElem?_getD, l]
    · simp [e]
  simp [Chip.modDie, h]

/-! ### Changing the stream that issues leaves every other field of the die -/

@[simp] theorem Die.modCtx_inShadow (f : Ctx → Ctx) : (x.modCtx f).inShadow = x.inShadow := by unfold Die.modCtx; split <;> rfl
@[simp] theorem Die.modCtx_run (f : Ctx → Ctx) : (x.modCtx f).run = x.run := by unfold Die.modCtx; split <;> rfl
@[simp] theorem Die.modCtx_launch (f : Ctx → Ctx) : (x.modCtx f).launch = x.launch := by unfold Die.modCtx; split <;> rfl
@[simp] theorem Die.modCtx_trap (f : Ctx → Ctx) : (x.modCtx f).trap = x.trap := by unfold Die.modCtx; split <;> rfl
@[simp] theorem Die.modCtx_trapQ (f : Ctx → Ctx) : (x.modCtx f).trapQ = x.trapQ := by unfold Die.modCtx; split <;> rfl
@[simp] theorem Die.modCtx_comm (f : Ctx → Ctx) : (x.modCtx f).comm = x.comm := by unfold Die.modCtx; split <;> rfl
@[simp] theorem Die.modCtx_lc (f : Ctx → Ctx) : (x.modCtx f).lc = x.lc := by unfold Die.modCtx; split <;> rfl
@[simp] theorem Die.modCtx_phaseAt (f : Ctx → Ctx) : (x.modCtx f).phaseAt = x.phaseAt := by unfold Die.modCtx; split <;> rfl
@[simp] theorem Die.modCtx_fpctl (f : Ctx → Ctx) : (x.modCtx f).fpctl = x.fpctl := by unfold Die.modCtx; split <;> rfl
@[simp] theorem Die.modCtx_sbchk (f : Ctx → Ctx) : (x.modCtx f).sbchk = x.sbchk := by unfold Die.modCtx; split <;> rfl
@[simp] theorem Die.modCtx_holdcnt (f : Ctx → Ctx) : (x.modCtx f).holdcnt = x.holdcnt := by unfold Die.modCtx; split <;> rfl
@[simp] theorem Die.modCtx_ssnum (f : Ctx → Ctx) : (x.modCtx f).ssnum = x.ssnum := by unfold Die.modCtx; split <;> rfl
@[simp] theorem Die.modCtx_inc (f : Ctx → Ctx) : (x.modCtx f).inc = x.inc := by unfold Die.modCtx; split <;> rfl
@[simp] theorem Die.modCtx_faultrec (f : Ctx → Ctx) : (x.modCtx f).faultrec = x.faultrec := by unfold Die.modCtx; split <;> rfl
@[simp] theorem Die.modCtx_sys (f : Ctx → Ctx) : (x.modCtx f).sys = x.sys := by unfold Die.modCtx; split <;> rfl
@[simp] theorem Die.modCtx_rgnId (f : Ctx → Ctx) : (x.modCtx f).rgnId = x.rgnId := by unfold Die.modCtx; split <;> rfl
@[simp] theorem Die.modCtx_view (f : Ctx → Ctx) : (x.modCtx f).view = x.view := by unfold Die.modCtx; split <;> rfl
@[simp] theorem Die.modCtx_dev (f : Ctx → Ctx) : (x.modCtx f).dev = x.dev := by unfold Die.modCtx; split <;> rfl
@[simp] theorem Die.modCtx_tvec (f : Ctx → Ctx) : (x.modCtx f).tvec = x.tvec := by unfold Die.modCtx; split <;> rfl
@[simp] theorem Die.modCtx_tcause (f : Ctx → Ctx) : (x.modCtx f).tcause = x.tcause := by unfold Die.modCtx; split <;> rfl
@[simp] theorem Die.modCtx_fwev (f : Ctx → Ctx) : (x.modCtx f).fwev = x.fwev := by unfold Die.modCtx; split <;> rfl
@[simp] theorem Die.modCtx_fwnew (f : Ctx → Ctx) : (x.modCtx f).fwnew = x.fwnew := by unfold Die.modCtx; split <;> rfl
@[simp] theorem Die.modCtx_heldFor (f : Ctx → Ctx) : (x.modCtx f).heldFor = x.heldFor := by unfold Die.modCtx; split <;> rfl
@[simp] theorem Die.modCtx_boundary (f : Ctx → Ctx) : (x.modCtx f).boundary = x.boundary := by unfold Die.modCtx; split <;> rfl
@[simp] theorem Die.modCtx_regionTable (f : Ctx → Ctx) : (x.modCtx f).regionTable = x.regionTable := by unfold Die.modCtx; split <;> rfl
@[simp] theorem Die.modCtx_barriers (f : Ctx → Ctx) : (x.modCtx f).barriers = x.barriers := by unfold Die.modCtx; split <;> rfl
@[simp] theorem Die.modCtx_nodeFlags (f : Ctx → Ctx) : (x.modCtx f).nodeFlags = x.nodeFlags := by unfold Die.modCtx; split <;> rfl
@[simp] theorem Die.modCtx_nodeDue (f : Ctx → Ctx) : (x.modCtx f).nodeDue = x.nodeDue := by unfold Die.modCtx; split <;> rfl
@[simp] theorem Die.modCtx_nodeArvs (f : Ctx → Ctx) : (x.modCtx f).nodeArvs = x.nodeArvs := by unfold Die.modCtx; split <;> rfl
@[simp] theorem Die.modCtx_queues (f : Ctx → Ctx) : (x.modCtx f).queues = x.queues := by unfold Die.modCtx; split <;> rfl
@[simp] theorem Die.modCtx_entries (f : Ctx → Ctx) : (x.modCtx f).entries = x.entries := by unfold Die.modCtx; split <;> rfl
@[simp] theorem Die.modCtx_monitors (f : Ctx → Ctx) : (x.modCtx f).monitors = x.monitors := by unfold Die.modCtx; split <;> rfl
@[simp] theorem Die.modCtx_sent (f : Ctx → Ctx) : (x.modCtx f).sent = x.sent := by unfold Die.modCtx; split <;> rfl
@[simp] theorem Die.modCtx_recvd (f : Ctx → Ctx) : (x.modCtx f).recvd = x.recvd := by unfold Die.modCtx; split <;> rfl
@[simp] theorem Die.modCtx_staging (f : Ctx → Ctx) : (x.modCtx f).staging = x.staging := by unfold Die.modCtx; split <;> rfl
@[simp] theorem Die.modCtx_logF (f : Ctx → Ctx) : (x.modCtx f).logF = x.logF := by unfold Die.modCtx; split <;> rfl
@[simp] theorem Die.modCtx_logC (f : Ctx → Ctx) : (x.modCtx f).logC = x.logC := by unfold Die.modCtx; split <;> rfl
@[simp] theorem Die.modCtx_logG (f : Ctx → Ctx) : (x.modCtx f).logG = x.logG := by unfold Die.modCtx; split <;> rfl
@[simp] theorem Die.modCtx_logOut (f : Ctx → Ctx) : (x.modCtx f).logOut = x.logOut := by unfold Die.modCtx; split <;> rfl
@[simp] theorem Die.modCtx_reds (f : Ctx → Ctx) : (x.modCtx f).reds = x.reds := by unfold Die.modCtx; split <;> rfl
@[simp] theorem Die.modCtx_fences (f : Ctx → Ctx) : (x.modCtx f).fences = x.fences := by unfold Die.modCtx; split <;> rfl
@[simp] theorem Die.modCtx_terms (f : Ctx → Ctx) : (x.modCtx f).terms = x.terms := by unfold Die.modCtx; split <;> rfl
@[simp] theorem Die.modCtx_dirty (f : Ctx → Ctx) : (x.modCtx f).dirty = x.dirty := by unfold Die.modCtx; split <;> rfl
@[simp] theorem Die.modCtx_kept (f : Ctx → Ctx) : (x.modCtx f).kept = x.kept := by unfold Die.modCtx; split <;> rfl
@[simp] theorem Die.modCtx_xw (f : Ctx → Ctx) : (x.modCtx f).xw = x.xw := by unfold Die.modCtx; split <;> rfl
@[simp] theorem Die.modCtx_solver (f : Ctx → Ctx) : (x.modCtx f).solver = x.solver := by unfold Die.modCtx; split <;> rfl
@[simp] theorem Die.modCtx_matrix (f : Ctx → Ctx) : (x.modCtx f).matrix = x.matrix := by unfold Die.modCtx; split <;> rfl
@[simp] theorem Die.modCtx_mace (f : Ctx → Ctx) : (x.modCtx f).mace = x.mace := by unfold Die.modCtx; split <;> rfl
@[simp] theorem Die.modCtx_copy (f : Ctx → Ctx) : (x.modCtx f).copy = x.copy := by unfold Die.modCtx; split <;> rfl
@[simp] theorem Die.modCtx_tcCopy (f : Ctx → Ctx) : (x.modCtx f).tcCopy = x.tcCopy := by unfold Die.modCtx; split <;> rfl
@[simp] theorem Die.modCtx_tcGather (f : Ctx → Ctx) : (x.modCtx f).tcGather = x.tcGather := by unfold Die.modCtx; split <;> rfl
@[simp] theorem Die.modCtx_tcFabric (f : Ctx → Ctx) : (x.modCtx f).tcFabric = x.tcFabric := by unfold Die.modCtx; split <;> rfl
@[simp] theorem Die.modCtx_tcSeq (f : Ctx → Ctx) : (x.modCtx f).tcSeq = x.tcSeq := by unfold Die.modCtx; split <;> rfl
@[simp] theorem Die.modCtx_ats (f : Ctx → Ctx) : (x.modCtx f).ats = x.ats := by unfold Die.modCtx; split <;> rfl
@[simp] theorem Die.modCtx_atsWait (f : Ctx → Ctx) : (x.modCtx f).atsWait = x.atsWait := by unfold Die.modCtx; split <;> rfl
@[simp] theorem Die.modCtx_dir (f : Ctx → Ctx) : (x.modCtx f).dir = x.dir := by unfold Die.modCtx; split <;> rfl
@[simp] theorem Die.modCtx_migs (f : Ctx → Ctx) : (x.modCtx f).migs = x.migs := by unfold Die.modCtx; split <;> rfl
@[simp] theorem Die.modCtx_stalecnt (f : Ctx → Ctx) : (x.modCtx f).stalecnt = x.stalecnt := by unfold Die.modCtx; split <;> rfl
@[simp] theorem Die.modCtx_router (f : Ctx → Ctx) : (x.modCtx f).router = x.router := by unfold Die.modCtx; split <;> rfl
@[simp] theorem Die.modCtx_routerNext (f : Ctx → Ctx) : (x.modCtx f).routerNext = x.routerNext := by unfold Die.modCtx; split <;> rfl
@[simp] theorem Die.modCtx_reach (f : Ctx → Ctx) : (x.modCtx f).reach = x.reach := by unfold Die.modCtx; split <;> rfl
@[simp] theorem Die.modCtx_linkst (f : Ctx → Ctx) : (x.modCtx f).linkst = x.linkst := by unfold Die.modCtx; split <;> rfl
@[simp] theorem Die.modCtx_incs (f : Ctx → Ctx) : (x.modCtx f).incs = x.incs := by unfold Die.modCtx; split <;> rfl
@[simp] theorem Die.modCtx_hbm0 (f : Ctx → Ctx) : (x.modCtx f).hbm0 = x.hbm0 := by unfold Die.modCtx; split <;> rfl
@[simp] theorem Die.modCtx_hbm1 (f : Ctx → Ctx) : (x.modCtx f).hbm1 = x.hbm1 := by unfold Die.modCtx; split <;> rfl
@[simp] theorem Die.modCtx_calendar (f : Ctx → Ctx) : (x.modCtx f).calendar = x.calendar := by unfold Die.modCtx; split <;> rfl
@[simp] theorem Die.modCtx_power (f : Ctx → Ctx) : (x.modCtx f).power = x.power := by unfold Die.modCtx; split <;> rfl
@[simp] theorem Die.modCtx_lastSc (f : Ctx → Ctx) : (x.modCtx f).lastSc = x.lastSc := by unfold Die.modCtx; split <;> rfl
@[simp] theorem Die.modCtx_odone (f : Ctx → Ctx) : (x.modCtx f).odone = x.odone := by unfold Die.modCtx; split <;> rfl
@[simp] theorem Die.modCtx_overrun (f : Ctx → Ctx) : (x.modCtx f).overrun = x.overrun := by unfold Die.modCtx; split <;> rfl
@[simp] theorem Die.modCtx_present (f : Ctx → Ctx) : (x.modCtx f).present = x.present := by unfold Die.modCtx; split <;> rfl
@[simp] theorem Die.modCtx_halted (f : Ctx → Ctx) : (x.modCtx f).halted = x.halted := by unfold Die.modCtx; split <;> rfl
@[simp] theorem Die.modCtx_gated (f : Ctx → Ctx) : (x.modCtx f).gated = x.gated := by unfold Die.modCtx; split <;> rfl

/-- The stream that issues reads as changed. -/
@[simp] theorem Die.modCtx_ctx (f : Ctx → Ctx) : (x.modCtx f).ctx = f x.ctx := by
  cases h : x.inShadow <;> simp [Die.modCtx, Die.ctx, h]
/-- The stream that does not issue stays. -/
theorem Die.modCtx_main (f : Ctx → Ctx) (h : x.inShadow = true) : (x.modCtx f).main = x.main := by simp [Die.modCtx, h]
theorem Die.modCtx_shadow (f : Ctx → Ctx) (h : x.inShadow = false) : (x.modCtx f).shadow = x.shadow := by simp [Die.modCtx, h]
/-- Changing a stream into itself changes nothing. -/
theorem Die.modCtx_id : (x.modCtx fun y => y) = x := by unfold Die.modCtx; split <;> rfl

/-! ### Going past a squashed bundle leaves every register -/

@[simp] theorem Ctx.squash_prog (n : Nat) : (y.squash n).prog = y.prog := rfl
@[simp] theorem Ctx.squash_s (n : Nat) : (y.squash n).s = y.s := rfl
@[simp] theorem Ctx.squash_p (n : Nat) : (y.squash n).p = y.p := rfl
@[simp] theorem Ctx.squash_c (n : Nat) : (y.squash n).c = y.c := rfl
@[simp] theorem Ctx.squash_tl (n : Nat) : (y.squash n).tl = y.tl := rfl
@[simp] theorem Ctx.squash_v (n : Nat) : (y.squash n).v = y.v := rfl
@[simp] theorem Ctx.squash_rotb (n : Nat) : (y.squash n).rotb = y.rotb := rfl
@[simp] theorem Ctx.squash_lsel (n : Nat) : (y.squash n).lsel = y.lsel := rfl
@[simp] theorem Ctx.squash_pend (n : Nat) : (y.squash n).pend = y.pend := rfl
@[simp] theorem Ctx.squash_wpend (n : Nat) : (y.squash n).wpend = y.wpend := rfl
@[simp] theorem Ctx.squash_resv (n : Nat) : (y.squash n).resv = y.resv := rfl
@[simp] theorem Ctx.squash_ptimed (n : Nat) : (y.squash n).ptimed = y.ptimed := rfl
@[simp] theorem Ctx.squash_waits (n : Nat) : (y.squash n).waits = y.waits := rfl

/-! ### What a piece of a meaning leaves -/

@[simp] theorem Delta.on_chip (d : Delta) : (d.on s).chip = d.chip := rfl
@[simp] theorem Delta.on_mem (d : Delta) : (d.on s).mem = s.mem.putAll d.writes := rfl

end Sys2Proof.Machine
end

