-- ==== Sys2Proof/Laws/Steps.lean ====
section
/-!
SUPPORT. What each way of putting pieces of a meaning together does, and what every piece and every operation can do: a next state
whose memory is in canonical form, or the fault of an event for a die that does not exist.
-/

namespace Sys2Proof.Machine

variable (s : State)

/-! ### Pieces -/

@[simp] theorem State.after_skip : s.after M.skip = s := rfl
@[simp] theorem State.after_mod (f : Chip → Chip) : s.after (M.mod f) = { s with chip := f s.chip } := rfl
@[simp] theorem State.after_write (w : MWrite) : s.after (M.write w) = { s with mem := s.mem.put w } := rfl
@[simp] theorem State.after_look (f : State → M) : s.after (M.look f) = s.after (f s) := rfl
@[simp] theorem State.after_seq (a b : M) : s.after (M.seq a b) = (s.after a).after b := by
  simp [State.after, M.seq, Delta.on, Memory.putAll_append]
@[simp] theorem State.after_all_nil : s.after (M.all []) = s := rfl
@[simp] theorem State.after_all_cons (a : M) (l : List M) : s.after (M.all (a :: l)) = (s.after a).after (M.all l) :=
  State.after_seq s a (M.all l)
@[simp] theorem State.after_iff_true (a : M) : s.after (M.iff true a) = s.after a := rfl
@[simp] theorem State.after_iff_false (a : M) : s.after (M.iff false a) = s := rfl
theorem State.after_iff (b : Bool) (a : M) : s.after (M.iff b a) = if b then s.after a else s := by cases b <;> rfl
@[simp] theorem State.after_each_nil {α : Type} (f : α → M) : s.after (M.each [] f) = s := rfl
@[simp] theorem State.after_each_cons {α : Type} (x : α) (l : List α) (f : α → M) :
    s.after (M.each (x :: l) f) = (s.after (f x)).after (M.each l f) := State.after_seq s (f x) (M.each l f)

/-- A meaning that ends well answers the state its piece leads to. -/
theorem finish_eq (m : M) : finish s m = .next (s.after m) := rfl
/-- So does an event of a die that exists. -/
theorem onDie_eq (d : Nat) (m : M) (h : d < 12) : onDie d s m = .next (s.after m) := by simp [onDie, h, finish, State.after]
/-- An event of any other die faults. -/
theorem onDie_absent (d : Nat) (m : M) (h : 12 ≤ d) : onDie d s m = .fault (.noSuchDie d) := by
  simp [onDie, Nat.not_lt.mpr h]

/-! ### The invariant -/

/-- A piece keeps memory in its canonical form. -/
theorem State.after_inv (m : M) (h : s.Inv) : (s.after m).Inv := Memory.putAll_wf _ _ h

/-! ### Every operation -/

/-- An outcome is the state some piece leads to, or the fault of an absent die. -/
def Answers (s : State) (o : Host.Outcome State Fault Refusal) : Prop :=
  (∃ m, o = .next (s.after m)) ∨ ∃ d, 12 ≤ d ∧ o = .fault (.noSuchDie d)

theorem finish_answers (m : M) : Answers s (finish s m) := .inl ⟨m, rfl⟩
theorem onDie_answers (d : Nat) (m : M) : Answers s (onDie d s m) := by
  by_cases h : d < 12
  · exact .inl ⟨m, onDie_eq s d m h⟩
  · exact .inr ⟨d, Nat.not_lt.mp h, onDie_absent s d m (Nat.not_lt.mp h)⟩

/-- Every instruction and event answers a next state made by its piece, but for an event of an absent die. -/
theorem exec_answers (i : Instr) : Answers s (exec i s) := by
  cases i <;> first | exact finish_answers _ _ | exact onDie_answers _ _ _

end Sys2Proof.Machine
end

