-- ==== Sys2Proof/Laws/Flight.lean ====
section
/-!
SUPPORT. What each operation that changes a register, a result in flight or a reservation does to the state, and what sparse
register files hold after a write.
-/

namespace Sys2Proof

/-! ### Sparse register files -/

theorem SMap.get_del {α : Type} (z : α) (m : SMap α) (k j : Nat) :
    SMap.get z (SMap.del m k) j = if j = k then z else SMap.get z m j := by
  induction m with
  | nil => simp [SMap.del, SMap.get]
  | cons p m ih =>
    obtain ⟨i, x⟩ := p
    by_cases h : i = k
    · by_cases hj : j = k
      · subst hj; simpa [SMap.del, h] using ih
      · simp [SMap.del, SMap.get, h, ih, hj, Ne.symm hj]
    · by_cases hi : i = j
      · subst hi; simp [SMap.del, SMap.get, h]
      · simp [SMap.del, SMap.get, h, hi, ih]

theorem SMap.get_ins {α : Type} (z : α) (m : SMap α) (k j : Nat) (x : α) (h : j ≠ k ∨ SMap.get z m k = z)
    (hk : ∀ p ∈ m, p.1 ≠ k) : SMap.get z (SMap.ins m k x) j = if j = k then x else SMap.get z m j := by
  induction m with
  | nil => by_cases e : k = j <;> simp [SMap.ins, SMap.get, e, eq_comm]
  | cons p m ih =>
    obtain ⟨i, y⟩ := p
    have hi : i ≠ k := hk (i, y) (by simp)
    have ih := ih (by
      rcases h with h | h
      · exact .inl h
      · right; simpa [SMap.get, hi] using h) (fun p hp => hk p (by simp [hp]))
    simp only [SMap.ins]
    split
    · by_cases e : j = k
      · simp [SMap.get, e]
      · simp [SMap.get, e, Ne.symm e]
    · by_cases e : i = j
      · subst e; simp [SMap.get, hi]
      · simp [SMap.get, e, ih]

theorem SMap.del_ne {α : Type} (m : SMap α) (k : Nat) : ∀ p ∈ SMap.del m k, p.1 ≠ k := by
  induction m with
  | nil => simp [SMap.del]
  | cons p m ih =>
    obtain ⟨i, x⟩ := p
    by_cases h : i = k
    · simpa [SMap.del, h] using ih
    · simpa [SMap.del, h] using ih

/-- A register file after a write: the key holds the value, every other key what it held. -/
theorem SMap.get_set {α : Type} [DecidableEq α] (z : α) (m : SMap α) (k j : Nat) (x : α) :
    SMap.get z (SMap.set z m k x) j = if j = k then x else SMap.get z m j := by
  unfold SMap.set
  split
  · next h => rw [SMap.get_del]; split <;> simp [*]
  · rw [SMap.get_ins z _ k j x (.inr (by rw [SMap.get_del]; simp)) (SMap.del_ne m k), SMap.get_del]
    split <;> simp [*]

@[simp] theorem SMap.get_set_same {α : Type} [DecidableEq α] (z : α) (m : SMap α) (k : Nat) (x : α) :
    SMap.get z (SMap.set z m k x) k = x := by simp [SMap.get_set]
theorem SMap.get_set_ne {α : Type} [DecidableEq α] (z : α) (m : SMap α) (k j : Nat) (x : α) (h : j ≠ k) :
    SMap.get z (SMap.set z m k x) j = SMap.get z m j := by simp [SMap.get_set, h]

namespace Machine

variable (s : State)

/-! ### Updates composed -/

/-- Two changes of one die are one change. -/
theorem Chip.modDie_comp (c : Chip) (d : Nat) (f g : Die → Die) :
    (c.modDie d f).modDie d g = c.modDie d fun x => g (f x) := by
  by_cases l : d < c.dies.length
  · simp [Chip.modDie, Chip.die, List.getD_eq_getElem?_getD, l]
  · have e : ∀ (x : Die), c.dies.set d x = c.dies := fun x => List.set_eq_of_length_le (Nat.le_of_not_lt l)
    simp [Chip.modDie, e]

theorem Die.modCtx_comp (x : Die) (f g : Ctx → Ctx) : (x.modCtx f).modCtx g = x.modCtx fun y => g (f y) := by
  cases h : x.inShadow <;> simp [Die.modCtx, h]

@[simp] theorem State.withDie_cd (d : Nat) (f : Die → Die) : (s.withDie d f).cd = s.cd := rfl
@[simp] theorem State.withMe_cd (f : Die → Die) : (s.withMe f).cd = s.cd := rfl
@[simp] theorem State.withCtx_cd (f : Ctx → Ctx) : (s.withCtx f).cd = s.cd := rfl
@[simp] theorem State.flying_cd (l : List Pend) : (s.flying l).cd = s.cd := rfl
theorem State.withMe_comp (f g : Die → Die) : (s.withMe f).withMe g = s.withMe fun x => g (f x) := by
  simp [State.withMe, State.withDie, Chip.modDie_comp, State.cd]
theorem State.withCtx_comp (f g : Ctx → Ctx) : (s.withCtx f).withCtx g = s.withCtx fun y => g (f y) := by
  simp [State.withCtx, State.withMe_comp, Die.modCtx_comp]
theorem State.withCtx_id : (s.withCtx fun y => y) = s := by
  simp [State.withCtx, State.withMe, State.withDie, Die.modCtx_id, Chip.modDie_id]
@[simp] theorem State.flying_nil : s.flying [] = s := by simp [State.flying, State.withCtx_id]
@[simp] theorem State.flying_append (a b : List Pend) : (s.flying a).flying b = s.flying (a ++ b) := by
  simp [State.flying, State.withCtx_comp]

/-! ### Pieces that change the issuing die -/

@[simp] theorem State.after_modDie (d : Nat) (f : Die → Die) : s.after (modDie d f) = s.withDie d f := rfl
@[simp] theorem State.after_modMe (f : Die → Die) : s.after (modMe f) = s.withMe f := rfl
@[simp] theorem State.after_modCx (f : Ctx → Ctx) : s.after (modCx f) = s.withCtx f := rfl
@[simp] theorem State.after_modCur (f : Cur → Cur) : s.after (modCur f) = s.withCur f := rfl
theorem State.after_later_eq (lat : Nat) (l : Land) :
    s.after (later lat l) = s.withCtx fun y => { y with pend := y.pend ++ [⟨y.prog + lat, y.prog, l⟩] } := rfl

/-- A die's stream as changed depends only on what the stream held. -/
theorem State.withCtx_congr (f g : Ctx → Ctx) (h : f s.cx = g s.cx) : s.withCtx f = s.withCtx g := by
  have : (s.me.modCtx f) = s.me.modCtx g := by
    unfold Die.modCtx
    split
    · next e => simp only [State.cx, Die.ctx, e, if_true] at h; rw [h]
    · next e => simp only [State.cx, Die.ctx, e] at h; simp at h; rw [h]
  simp only [State.withCtx, State.withMe, State.withDie, Chip.modDie]
  show ({ s with chip := { s.chip with dies := s.chip.dies.set s.cd (s.me.modCtx f) } } : State) = _
  rw [this]; rfl

/-- A result joins those in flight. -/
@[simp] theorem State.after_later (lat : Nat) (l : Land) : s.after (later lat l) = s.flying [s.flight lat l] :=
  s.withCtx_congr _ _ rfl
/-- A scalar result: none for s0. -/
@[simp] theorem State.after_laterS (lat n : Nat) (v : Word) : s.after (laterS lat n v) = s.flying (s.sRes lat n v) := by
  simp only [laterS, State.after_look, State.sRes]
  split <;> simp
/-- A predicate result: none for p0. -/
@[simp] theorem State.after_laterP (lat n : Nat) (b : Bool) : s.after (laterP lat n b) = s.flying (s.pRes lat n b) := by
  simp only [laterP, State.after_look, State.pRes]
  split <;> simp
/-- A vector result. -/
@[simp] theorem State.after_laterV (lat n : Nat) (v : Vec) : s.after (laterV lat n v) = s.flying (s.vRes lat n v) := by
  simp [laterV, State.vRes]
@[simp] theorem State.after_laterW (lat bank row : Nat) (be : BitVec 64) (data : Row) (path : Nat) :
    s.after (laterW lat bank row be data path) = s.walling lat bank row be data path := rfl
@[simp] theorem State.after_reserve (cyc bank row : Nat) (write route : Bool) :
    s.after (reserve cyc bank row write route) = s.reserving cyc bank row write route := rfl
@[simp] theorem State.after_trapWith (code : Code) (detail : Word) :
    s.after (trapWith code detail 0) = s.trapped code detail := rfl
@[simp] theorem State.after_trap (code : Code) : s.after (trap code) = s.trapped code 0 := rfl

/-- A check that passes does nothing; one that fails is the exception. -/
@[simp] theorem State.after_need_ok (code : Code) (m : M) : s.after (need true code m) = s.after m := rfl
@[simp] theorem State.after_need_bad (code : Code) (m : M) : s.after (need false code m) = s.trapped code 0 := rfl
theorem State.after_privileged (m : M) :
    s.after (privileged m) = if s.sysMode then s.after m else s.trapped .privilegedOp 0 := by
  simp only [privileged, State.after_look]; split <;> rfl
theorem State.after_computeOnly (m : M) :
    s.after (computeOnly m) = if s.house then s.trapped .illegalOp 0 else s.after m := by
  simp only [computeOnly, State.after_look]; split <;> rfl

/-! ### Registers of the issuing die after results join those in flight -/

section
variable (l : List Pend)
@[simp] theorem State.flying_mem : (s.flying l).mem = s.mem := rfl
@[simp] theorem State.flying_house : (s.flying l).house = s.house := rfl
theorem State.flying_me (h : s.cd < s.chip.dies.length) :
    (s.flying l).me = s.me.modCtx fun y => { y with pend := y.pend ++ l } := by
  show (s.chip.modDie s.cd _).die s.cd = _
  rw [Chip.modDie_same _ _ _ h]; rfl
theorem State.flying_cx (h : s.cd < s.chip.dies.length) : (s.flying l).cx = { s.cx with pend := s.cx.pend ++ l } := by
  simp [State.cx, State.flying_me s l h]
end

end Machine

end Sys2Proof
end

