-- ==== Sys2Proof/Laws/Access.lean ====
section
/-!
SUPPORT. What an access that starts can change: the table of accesses, events, the translation and calendar records of dies, and
nothing else; and that it stays in the table as what it is.
-/

namespace Sys2Proof.Machine

/-! ### Pieces that leave something alone -/

/-- A piece leaves what `g` sees of the state. -/
def Keeps {α : Type} (g : State → α) (m : M) : Prop := ∀ s, g (s.after m) = g s

section
variable {α β : Type} {g : State → α}

theorem Keeps.skip : Keeps g M.skip := fun _ => rfl
theorem Keeps.seq {a b : M} (ha : Keeps g a) (hb : Keeps g b) : Keeps g (M.seq a b) := fun s => by
  rw [State.after_seq, hb, ha]
theorem Keeps.look {f : State → M} (h : ∀ s, Keeps g (f s)) : Keeps g (M.look f) := fun s => by
  rw [State.after_look, h s s]
theorem Keeps.nil : Keeps g (M.all []) := Keeps.skip
theorem Keeps.cons {a : M} {l : List M} (ha : Keeps g a) (hl : Keeps g (M.all l)) : Keeps g (M.all (a :: l)) := fun s => by
  rw [State.after_all_cons, hl, ha]
theorem Keeps.each {l : List β} {f : β → M} (h : ∀ x, Keeps g (f x)) : Keeps g (M.each l f) := by
  induction l with
  | nil => exact Keeps.skip
  | cons x l ih => intro s; rw [State.after_each_cons, ih, h x]
theorem Keeps.iff {b : Bool} {a : M} (h : Keeps g a) : Keeps g (M.iff b a) := by
  cases b
  · exact Keeps.skip
  · exact h
theorem Keeps.ite {p : Prop} [Decidable p] {a b : M} (ha : Keeps g a) (hb : Keeps g b) : Keeps g (if p then a else b) := by
  split
  · exact ha
  · exact hb
theorem Keeps.mod {f : Chip → Chip} (h : ∀ s : State, g { s with chip := f s.chip } = g s) : Keeps g (M.mod f) := h
end

/-! ### Memory -/

theorem Keeps.mem_mod (f : Chip → Chip) : Keeps State.mem (M.mod f) := fun _ => rfl
theorem Keeps.mem_modDie (d : Nat) (f : Die → Die) : Keeps State.mem (modDie d f) := fun _ => rfl

/-! ### What starting an access changes -/

theorem Keeps.still_modDie {d : Nat} {f : Die → Die} (h : ∀ x, (f x).still = x.still) : Keeps State.still (modDie d f) := by
  intro s
  have e : (s.chip.dies.set d (f (s.chip.die d))).map Die.still = s.chip.dies.map Die.still := by
    apply List.ext_getElem?
    intro i
    by_cases c : d = i
    · subst c
      by_cases l : d < s.chip.dies.length
      · simp [l, Chip.die, List.getD_eq_getElem?_getD, h]
      · simp [l]
    · simp [c]
  show State.still { s with chip := s.chip.modDie d f } = _
  simp only [State.still, Chip.modDie, e]

theorem Keeps.still_events (t : Nat) (i : Instr) : Keeps State.still (sched t i) := fun _ => rfl
theorem Keeps.still_schedIn (t : Nat) (i : Instr) : Keeps State.still (schedIn t i) := fun _ => rfl
theorem Keeps.still_free : Keeps State.still tickFree := fun _ => rfl
theorem Keeps.still_modAcc (id : Nat) (f : Acc → Acc) : Keeps State.still (modAcc id f) := fun _ => rfl
theorem Keeps.still_dropAcc (id : Nat) : Keeps State.still (dropAcc id) := fun _ => rfl
theorem Keeps.still_accFail (id : Nat) (code : Code) (cause : Nat) : Keeps State.still (accFail id code cause) :=
  Keeps.seq (Keeps.still_modAcc _ _) (Keeps.still_schedIn _ _)

theorem Die.setTc_still (x : Die) (n : Nat) (l : List TcEntry) : (x.setTc n l).still = x.still := by
  unfold Die.setTc; split <;> rfl

theorem Keeps.still_withAcc (id : Nat) (f : Acc → M) (h : ∀ a, Keeps State.still (f a)) : Keeps State.still (withAcc id f) := by
  unfold withAcc
  refine Keeps.look fun s => ?_
  split
  · exact h _
  · exact Keeps.skip

theorem Keeps.still_redLeave (d entry : Nat) : Keeps State.still (redLeave d entry) := by
  unfold redLeave
  exact Keeps.look fun _ => Keeps.iff (Keeps.seq (Keeps.still_modDie fun _ => rfl) (Keeps.still_withAcc _ _ fun _ => Keeps.still_events _ _))

theorem Keeps.still_leave (a : Acc) (t key delay : Nat) (ev : Instr) : Keeps State.still (leave a t key delay ev) := by
  unfold leave
  refine Keeps.look fun s => ?_
  split
  · exact Keeps.still_events _ _
  · dsimp only
    split
    · exact Keeps.still_modAcc _ _
    · refine Keeps.cons ?_ (Keeps.cons (Keeps.still_modAcc _ _) (Keeps.cons (Keeps.still_modDie fun _ => rfl)
        (Keeps.cons (Keeps.still_events _ _) Keeps.nil)))
      split
      · exact Keeps.iff (Keeps.still_redLeave _ _)
      · exact Keeps.skip

theorem Keeps.still_takeRide (d e off start : Nat) : Keeps State.still (takeRide d e off start) := Keeps.still_modDie fun _ => rfl

theorem Keeps.still_askPlace (a : Acc) (t v : Nat) : Keeps State.still (askPlace a t v) :=
  Keeps.seq (Keeps.still_modAcc _ _) (Keeps.still_events _ _)

theorem Keeps.still_ride (a : Acc) (e off q : Nat) : Keeps State.still (ride a e off q) := by
  unfold ride
  exact Keeps.look fun s => Keeps.cons Keeps.still_free (Keeps.cons (Keeps.still_takeRide _ _ _ _) (Keeps.cons (Keeps.still_modAcc _ _)
    (Keeps.cons (Keeps.ite (Keeps.still_leave _ _ _ _ _) (Keeps.still_events _ _)) Keeps.nil)))

theorem Keeps.still_board (a : Acc) (e off t u : Nat) : Keeps State.still (board a e off t u) := by
  unfold board
  refine Keeps.look fun s => ?_
  split
  · exact Keeps.still_ride _ _ _ _
  · refine Keeps.ite (Keeps.still_askPlace _ _ _) ?_
    split
    · exact Keeps.still_ride _ _ _ _
    · exact Keeps.still_askPlace _ _ _

theorem Keeps.still_schedLoaded (n : Nat) (i : Instr) : Keeps State.still (schedLoaded n i) := by
  unfold schedLoaded
  exact Keeps.look fun _ => Keeps.seq (Keeps.still_events _ _) Keeps.still_free

theorem Keeps.still_sendOff (a : Acc) (t : Nat) (row : Row) : Keeps State.still (sendOff a t row) := by
  unfold sendOff
  exact Keeps.look fun s => Keeps.seq (Keeps.still_modAcc _ _) (Keeps.ite (Keeps.still_schedIn _ _) (Keeps.still_schedLoaded _ _))

theorem Keeps.still_forward (a : Acc) (home key : Nat) (f : Nat × Nat) (load : Bool) :
    Keeps State.still (forward a home key f load) := by
  unfold forward
  exact Keeps.look fun s => Keeps.cons Keeps.still_free (Keeps.cons (Keeps.still_modAcc _ _)
    (Keeps.cons (Keeps.still_leave _ _ _ _ _) Keeps.nil))

theorem Keeps.still_askHost (d pg : Nat) : Keeps State.still (askHost d pg) :=
  Keeps.look fun _ => Keeps.seq (Keeps.still_events _ _) Keeps.still_free

theorem Keeps.still_joinAts (a : Acc) (va : Nat) : Keeps State.still (joinAts a va) := by
  unfold joinAts
  refine Keeps.look fun s => ?_
  refine Keeps.seq (Keeps.seq (Keeps.still_modAcc _ _) (Keeps.still_modDie fun x => ?_)) (Keeps.iff (Keeps.still_askHost _ _))
  split
  · rfl
  · split <;> rfl

theorem Keeps.still_translateVa (a : Acc) (va : Nat) (write : Option Bool) (k : Nat → TcEntry → M)
    (h : ∀ p e, Keeps State.still (k p e)) : Keeps State.still (translateVa a va write k) := by
  unfold translateVa
  refine Keeps.look fun s => ?_
  split
  · exact Keeps.still_joinAts _ _
  · exact Keeps.cons (Keeps.still_modDie (fun x => Die.setTc_still x _ _)) (Keeps.cons (Keeps.still_modAcc _ _) (Keeps.cons
      (Keeps.ite (Keeps.still_accFail _ _ _) (Keeps.ite (Keeps.still_accFail _ _ _) (h _ _))) Keeps.nil))

theorem Keeps.still_toWalker (a : Acc) (pa : Nat) (e : TcEntry) (va word fmt : Nat) (h : a.kind ≠ .osend) :
    Keeps State.still (toWalker a pa e va word fmt) := by
  unfold toWalker
  refine Keeps.look fun s => ?_
  refine Keeps.ite (Keeps.still_accFail _ _ _) (Keeps.ite (Keeps.ite (Keeps.still_accFail _ _ _) ?_) ?_)
  · rw [if_neg h]
    exact Keeps.ite (Keeps.still_accFail _ _ _) (Keeps.seq (Keeps.still_modAcc _ _) (Keeps.mod fun _ => rfl))
  · split
    · exact Keeps.ite (Keeps.cons Keeps.still_free (Keeps.cons (Keeps.still_modAcc _ _)
        (Keeps.cons (Keeps.still_events _ _) Keeps.nil))) (Keeps.still_accFail _ _ _)
    · exact Keeps.seq (Keeps.still_modAcc _ _) (Keeps.still_leave _ _ _ _ _)

theorem Keeps.still_atDirectory (a : Acc) (pa : Nat) (e : TcEntry) (k : Nat → Nat → M) (h : ∀ d o, Keeps State.still (k d o)) :
    Keeps State.still (atDirectory a pa e k) := by
  unfold atDirectory
  refine Keeps.look fun s => ?_
  split
  · exact Keeps.still_accFail _ _ _
  · exact Keeps.seq (Keeps.still_modAcc _ _) (Keeps.ite (Keeps.still_accFail _ _ _) (h _ _))

theorem Keeps.still_withPage (a : Acc) (base : Nat) (k : Nat → M) (h : ∀ lv, Keeps State.still (k lv)) :
    Keeps State.still (withPage a base k) := by
  unfold withPage
  refine Keeps.still_translateVa _ _ _ _ fun p e => Keeps.look fun s => ?_
  have leaf (o : Option Nat) : Keeps State.still (match o with | none => accFail a.id .pageFault 5 | some lv => k lv) := by
    cases o
    · exact Keeps.still_accFail _ _ _
    · exact h _
  exact Keeps.ite (Keeps.ite (leaf _) (Keeps.still_accFail _ _ _)) (Keeps.still_atDirectory _ _ _ _ fun _ _ => leaf _)

theorem Keeps.still_translate (a : Acc) (base : Nat) (bits : Int) (h : a.kind ≠ .osend) : Keeps State.still (translate a base bits) := by
  unfold translate
  have done (f : Acc → Acc) (i : Instr) : Keeps State.still (M.seq (modAcc a.id f) (schedIn 0 i)) :=
    Keeps.seq (Keeps.still_modAcc _ _) (Keeps.still_schedIn _ _)
  refine Keeps.ite (Keeps.still_withPage _ _ _ fun lv => done _ _)
    (Keeps.ite (Keeps.still_translateVa _ _ _ _ fun p e => Keeps.still_atDirectory _ _ _ _ fun _ _ => Keeps.look fun s => done _ _)
      (Keeps.ite (Keeps.still_translateVa _ _ _ _ fun p e => Keeps.still_atDirectory _ _ _ _ fun _ _ => done _ _)
        (Keeps.ite (Keeps.still_translateVa _ _ _ _ fun p e => Keeps.still_toWalker _ _ _ _ _ _ h)
          (Keeps.still_withPage _ _ _ fun lv => ?_))))
  dsimp only
  split
  · exact Keeps.ite (Keeps.still_dropAcc _) (done _ _)
  · exact Keeps.still_translateVa _ _ _ _ fun p e => Keeps.still_toWalker _ _ _ _ _ _ h

/-- An access that takes its first step changes nothing but what `State.still` leaves out. -/
theorem Keeps.still_beginAcc (a : Acc) (h : a.kind ≠ .osend) : Keeps State.still (beginAcc a) := by
  unfold beginAcc
  refine Keeps.look fun s => ?_
  split
  · exact Keeps.ite (Keeps.still_sendOff _ _ _) (Keeps.still_schedIn _ _)
  · exact Keeps.ite (Keeps.still_sendOff _ _ _) (Keeps.seq (Keeps.still_modAcc _ _) (Keeps.still_forward _ _ _ _ _))
  · exact Keeps.seq (Keeps.still_modAcc _ _) (Keeps.still_forward _ _ _ _ _)
  · exact Keeps.still_translate _ _ _ h
  · exact Keeps.ite (Keeps.still_accFail _ _ _) (Keeps.seq (Keeps.still_modAcc _ _)
      (Keeps.ite (Keeps.still_askPlace _ _ _) (Keeps.still_forward _ _ _ _ _)))

/-- So does an access that starts. -/
theorem Keeps.still_startAcc (a : Acc) (h : a.kind ≠ .osend) : Keeps State.still (startAcc a) :=
  Keeps.seq (Keeps.mod fun _ => rfl) (Keeps.still_beginAcc a h)

/-! ### What an access in the table stays -/

section
variable {b : Bool}

theorem Keeps.whats_mod {f : Chip → Chip} (h : ∀ c, (f c).accs = c.accs) : Keeps (State.whats b) (M.mod f) := fun s => by
  simp [State.whats, h]
theorem Keeps.whats_modDie (d : Nat) (f : Die → Die) : Keeps (State.whats b) (modDie d f) := fun _ => rfl
theorem Keeps.whats_sched (t : Nat) (i : Instr) : Keeps (State.whats b) (sched t i) := fun _ => rfl
theorem Keeps.whats_schedIn (t : Nat) (i : Instr) : Keeps (State.whats b) (schedIn t i) := fun _ => rfl
theorem Keeps.whats_free : Keeps (State.whats b) tickFree := fun _ => rfl
theorem Keeps.whats_modAcc (id : Nat) {f : Acc → Acc} (h : ∀ x, (f x).what b = x.what b) : Keeps (State.whats b) (modAcc id f) := fun s => by
  show ((s.chip.accs.map fun a => if a.id = id then f a else a).map (Acc.what b)) = s.chip.accs.map (Acc.what b)
  simp only [List.map_map]
  apply List.map_congr_left
  intro x _
  simp only [Function.comp]
  split <;> simp [h]
theorem Keeps.whats_accFail (id : Nat) (code : Code) (cause : Nat) : Keeps (State.whats b) (accFail id code cause) :=
  Keeps.seq (Keeps.whats_modAcc _ fun _ => rfl) (Keeps.whats_schedIn _ _)

theorem Keeps.whats_redLeave (d entry : Nat) : Keeps (State.whats b) (redLeave d entry) := by
  unfold redLeave withAcc
  refine Keeps.look fun _ => Keeps.iff (Keeps.seq (Keeps.whats_modDie _ _) (Keeps.look fun s => ?_))
  split
  · exact Keeps.whats_sched _ _
  · exact Keeps.skip

theorem Keeps.whats_leave (a : Acc) (t key delay : Nat) (ev : Instr) : Keeps (State.whats b) (leave a t key delay ev) := by
  unfold leave
  refine Keeps.look fun s => ?_
  split
  · exact Keeps.whats_sched _ _
  · dsimp only
    split
    · exact Keeps.whats_modAcc _ fun _ => rfl
    · refine Keeps.cons ?_ (Keeps.cons (Keeps.whats_modAcc _ fun _ => rfl) (Keeps.cons (Keeps.whats_modDie _ _)
        (Keeps.cons (Keeps.whats_sched _ _) Keeps.nil)))
      split
      · exact Keeps.iff (Keeps.whats_redLeave _ _)
      · exact Keeps.skip

theorem Keeps.whats_forward (a : Acc) (home key : Nat) (f : Nat × Nat) (load : Bool) :
    Keeps (State.whats b) (forward a home key f load) := by
  unfold forward
  exact Keeps.look fun s => Keeps.cons Keeps.whats_free (Keeps.cons (Keeps.whats_modAcc _ fun _ => rfl)
    (Keeps.cons (Keeps.whats_leave _ _ _ _ _) Keeps.nil))

theorem Keeps.whats_joinAts (a : Acc) (va : Nat) : Keeps (State.whats b) (joinAts a va) := by
  unfold joinAts
  exact Keeps.look fun s => Keeps.seq (Keeps.seq (Keeps.whats_modAcc _ fun _ => rfl) (Keeps.whats_modDie _ _))
    (Keeps.iff (Keeps.look fun _ => Keeps.seq (Keeps.whats_sched _ _) Keeps.whats_free))

theorem Keeps.whats_translateVa (a : Acc) (va : Nat) (write : Option Bool) (k : Nat → TcEntry → M)
    (h : ∀ p e, Keeps (State.whats b) (k p e)) : Keeps (State.whats b) (translateVa a va write k) := by
  unfold translateVa
  refine Keeps.look fun s => ?_
  split
  · exact Keeps.whats_joinAts _ _
  · exact Keeps.cons (Keeps.whats_modDie _ _) (Keeps.cons (Keeps.whats_modAcc _ fun _ => rfl) (Keeps.cons
      (Keeps.ite (Keeps.whats_accFail _ _ _) (Keeps.ite (Keeps.whats_accFail _ _ _) (h _ _))) Keeps.nil))

theorem Keeps.whats_toWalker (a : Acc) (pa : Nat) (e : TcEntry) (va word fmt : Nat) (h : a.kind ≠ .osend) :
    Keeps (State.whats b) (toWalker a pa e va word fmt) := by
  unfold toWalker
  refine Keeps.look fun s => ?_
  refine Keeps.ite (Keeps.whats_accFail _ _ _) (Keeps.ite (Keeps.ite (Keeps.whats_accFail _ _ _) ?_) ?_)
  · rw [if_neg h]
    exact Keeps.ite (Keeps.whats_accFail _ _ _) (Keeps.seq (Keeps.whats_modAcc _ fun _ => rfl) (Keeps.whats_mod fun _ => rfl))
  · split
    · exact Keeps.ite (Keeps.cons Keeps.whats_free (Keeps.cons (Keeps.whats_modAcc _ fun _ => rfl)
        (Keeps.cons (Keeps.whats_sched _ _) Keeps.nil))) (Keeps.whats_accFail _ _ _)
    · exact Keeps.seq (Keeps.whats_modAcc _ fun _ => rfl) (Keeps.whats_leave _ _ _ _ _)

theorem Keeps.whats_atDirectory (a : Acc) (pa : Nat) (e : TcEntry) (k : Nat → Nat → M) (h : ∀ d o, Keeps (State.whats b) (k d o)) :
    Keeps (State.whats b) (atDirectory a pa e k) := by
  unfold atDirectory
  refine Keeps.look fun s => ?_
  split
  · exact Keeps.whats_accFail _ _ _
  · exact Keeps.seq (Keeps.whats_modAcc _ fun _ => rfl) (Keeps.ite (Keeps.whats_accFail _ _ _) (h _ _))

theorem Keeps.whats_withPage (a : Acc) (base : Nat) (k : Nat → M) (h : ∀ lv, Keeps (State.whats b) (k lv)) :
    Keeps (State.whats b) (withPage a base k) := by
  unfold withPage
  refine Keeps.whats_translateVa _ _ _ _ fun p e => Keeps.look fun s => ?_
  have leaf (o : Option Nat) : Keeps (State.whats b) (match o with | none => accFail a.id .pageFault 5 | some lv => k lv) := by
    cases o
    · exact Keeps.whats_accFail _ _ _
    · exact h _
  exact Keeps.ite (Keeps.ite (leaf _) (Keeps.whats_accFail _ _ _)) (Keeps.whats_atDirectory _ _ _ _ fun _ _ => leaf _)

theorem Keeps.whats_translate (a : Acc) (base : Nat) (bits : Int) (h : a.kind ≠ .osend) (hn : a.kind ≠ .nodeRead ∨ a.fn ≠ 3)
    (hf : a.fill = none ∨ (a.entry ≠ none ∧ b = false)) : Keeps (State.whats b) (translate a base bits) := by
  unfold translate
  have done (f : Acc → Acc) (i : Instr) (hf : ∀ x, (f x).what b = x.what b) :
      Keeps (State.whats b) (M.seq (modAcc a.id f) (schedIn 0 i)) := Keeps.seq (Keeps.whats_modAcc _ hf) (Keeps.whats_schedIn _ _)
  rw [if_neg (c := (a.kind = .nodeRead && a.fn = 3) = true) (by simpa using Decidable.or_iff_not_imp_left.mp hn)]
  refine Keeps.ite (Keeps.whats_withPage _ _ _ fun lv => done (fun x => { x with fmt := fld lv 36 5, stage := .done }) _ fun _ => rfl)
    (Keeps.ite (Keeps.whats_translateVa _ _ _ _ fun p e => Keeps.whats_atDirectory _ _ _ _ fun _ _ =>
        done (fun x => { x with stage := .done }) _ fun _ => rfl)
      (Keeps.ite (Keeps.whats_translateVa _ _ _ _ fun p e => Keeps.whats_toWalker _ _ _ _ _ _ h)
        (Keeps.whats_withPage _ _ _ fun lv => ?_)))
  split
  · next f hfill =>
    have hb : a.entry.isNone = false ∧ b = false := by
      rcases hf with hf | hf
      · rw [hfill] at hf; cases hf
      · exact ⟨by cases he : a.entry <;> simp_all, hf.2⟩
    obtain ⟨he, rfl⟩ := hb
    rw [he]
    exact Keeps.seq (Keeps.whats_modAcc _ fun _ => rfl) (Keeps.whats_schedIn _ _)
  · exact Keeps.whats_translateVa _ _ _ _ fun p e => Keeps.whats_toWalker _ _ _ _ _ _ h

theorem Keeps.whats_takeRide (d e off start : Nat) : Keeps (State.whats b) (takeRide d e off start) := Keeps.whats_modDie _ _

theorem Keeps.whats_askPlace (a : Acc) (t v : Nat) : Keeps (State.whats b) (askPlace a t v) :=
  Keeps.seq (Keeps.whats_modAcc _ fun _ => rfl) (Keeps.whats_sched _ _)

theorem Keeps.whats_ride (a : Acc) (e off q : Nat) : Keeps (State.whats b) (ride a e off q) := by
  unfold ride
  exact Keeps.look fun s => Keeps.cons Keeps.whats_free (Keeps.cons (Keeps.whats_takeRide _ _ _ _) (Keeps.cons (Keeps.whats_modAcc _ fun _ => rfl)
    (Keeps.cons (Keeps.ite (Keeps.whats_leave _ _ _ _ _) (Keeps.whats_sched _ _)) Keeps.nil)))

theorem Keeps.whats_board (a : Acc) (e off t u : Nat) : Keeps (State.whats b) (board a e off t u) := by
  unfold board
  refine Keeps.look fun s => ?_
  split
  · exact Keeps.whats_ride _ _ _ _
  · refine Keeps.ite (Keeps.whats_askPlace _ _ _) ?_
    split
    · exact Keeps.whats_ride _ _ _ _
    · exact Keeps.whats_askPlace _ _ _

theorem Keeps.whats_sendOff (a : Acc) (t : Nat) (row : Row) (h : b = false) : Keeps (State.whats b) (sendOff a t row) := by
  subst h
  unfold sendOff
  refine Keeps.look fun s => Keeps.seq (Keeps.whats_modAcc _ fun _ => rfl) (Keeps.ite (Keeps.whats_schedIn _ _) ?_)
  unfold schedLoaded
  exact Keeps.look fun _ => Keeps.seq (Keeps.whats_sched _ _) Keeps.whats_free

/-- An access whose first step leaves it in the table as what it is, with `b` its data too: no OSEND, whose row goes into its queue,
no MIGRATE's look at a page, no store beyond its tensor, which is dropped; and a SEND takes its row. -/
def Acc.stays (b : Bool) (a : Acc) : Prop :=
  a.kind ≠ .osend ∧ (a.kind ≠ .nodeRead ∨ a.fn ≠ 3) ∧ (a.kind ≠ .send ∨ b = false) ∧ (a.fill = none ∨ (a.entry ≠ none ∧ b = false))

theorem Keeps.whats_beginAcc (a : Acc) (h : a.stays b) : Keeps (State.whats b) (beginAcc a) := by
  obtain ⟨ho, hn, hs, hf⟩ := h
  unfold beginAcc
  have send (t : Nat) (row : Row) (m : M) (hm : Keeps (State.whats b) m) :
      Keeps (State.whats b) (if a.kind = .send then sendOff a t row else m) := by
    split
    · next e => exact Keeps.whats_sendOff _ _ _ (hs.resolve_left fun k => k e)
    · exact hm
  refine Keeps.look fun s => ?_
  split
  · exact send _ _ _ (Keeps.whats_schedIn _ _)
  · exact send _ _ _ (Keeps.seq (Keeps.whats_modAcc _ fun _ => rfl) (Keeps.whats_forward _ _ _ _ _))
  · exact Keeps.seq (Keeps.whats_modAcc _ fun _ => rfl) (Keeps.whats_forward _ _ _ _ _)
  · exact Keeps.whats_translate _ _ _ ho hn hf
  · exact Keeps.ite (Keeps.whats_accFail _ _ _) (Keeps.seq (Keeps.whats_modAcc _ fun _ => rfl)
      (Keeps.ite (Keeps.whats_askPlace _ _ _) (Keeps.whats_forward _ _ _ _ _)))

/-- An access that starts joins the table. -/
theorem whats_startAcc (s : State) (a : Acc) (h : a.stays b) :
    (s.after (startAcc a)).whats b = s.whats b ++ [a.what b] := by
  rw [startAcc, State.after_seq, Keeps.whats_beginAcc a h]
  simp [State.whats]

end

/-! ### Requests of the fabric path -/

/-- Issuing an access changes nothing but what `State.still` leaves out, -/
theorem Keeps.still_issueAcc (a : Acc) (h : a.kind ≠ .osend) : Keeps State.still (issueAcc a) := by
  unfold issueAcc
  refine Keeps.look fun s => ?_
  exact Keeps.ite (Keeps.still_startAcc a h) (Keeps.mod fun _ => rfl)

/-- and the access joins the table. -/
theorem whats_issueAcc (s : State) (b : Bool) (a : Acc) (h : a.stays b) :
    (s.after (issueAcc a)).whats b = s.whats b ++ [a.what b] := by
  have e (p : Prop) [Decidable p] (x y : M) (hx : (s.after x).whats b = s.whats b ++ [a.what b])
      (hy : (s.after y).whats b = s.whats b ++ [a.what b]) : (s.after (if p then x else y)).whats b = s.whats b ++ [a.what b] := by
    split
    · exact hx
    · exact hy
  rw [issueAcc, State.after_look]
  exact e _ _ _ (whats_startAcc s a h) (by simp [State.whats, Acc.what])

/-- A named request takes its entry; with 256 outstanding it traps. -/
theorem State.after_namedReq (s : State) (off : Nat) (w : LandWhat) (k : Nat → M) :
    s.after (namedReq off w k) = if 256 ≤ s.me.entries.length then s.trapped .landingFull 0
      else (s.named off w).after (k s.chip.nextId) := by
  rw [namedReq, State.after_look]
  split
  · rfl
  · simp only [State.after_all_cons, State.after_all_nil, takeEntry, State.after_mod]
    rfl

/-- A named load: its entry, and its access. -/
theorem State.after_fabricLoad (s : State) (off : Nat) (w : LandWhat) (f : Acc → Acc) (h : s.me.entries.length < 256) :
    s.after (fabricLoad off w f) =
      (s.named off w).after (issueAcc (f { blankAcc (s.named off w).chip s.cd .ldWord .beyond with entry := some s.chip.nextId })) := by
  rw [fabricLoad, State.after_namedReq, if_neg (Nat.not_le.mpr h)]
  rfl

/-! ### Records and taking an exception -/

/-- The record of a fault joins those of the package cycle (R338); with no launch there is none. -/
theorem State.after_writeRecordOf (s : State) (launch : Option Nat) (d : Nat) (t : Trap) :
    s.after (writeRecordOf launch d t) = (match s.chip.launches.find? fun (l : Launch) => some l.id == launch with
      | none => s
      | some l => s.withChip fun c => { c with
          records := c.records ++ [⟨l.id, d, c.nextId, recordRows d (c.die d) t⟩], nextId := c.nextId + 1 }) := by
  rw [writeRecordOf, State.after_look, writeRecordAs, State.after_look]
  cases s.chip.launches.find? fun l => some l.id == launch <;> rfl

/-- A record that takes its place changes only the count of its launch, FAULTREC and the address of its fault, but for what `State.still`
leaves out. -/
theorem placeRecord_still (s : State) (p : PRecord) :
    (s.after (placeRecord p)).still = (match s.chip.launches.find? fun (l : Launch) => l.id == p.launch with
      | none => s
      | some l => s.after (countRecord l p)).still := by
  rw [placeRecord, State.after_look]
  cases hl : s.chip.launches.find? fun l => l.id == p.launch with
  | none => exact congrArg _ (State.after_skip s)
  | some l =>
    exact (congrArg _ (State.after_seq s _ _)).trans (Keeps.each (fun k => Keeps.look fun s' =>
      Keeps.still_startAcc _ (by rw [recordAcc, blankAcc]; exact AccKind.noConfusion)) _)

end Sys2Proof.Machine
end

