-- ==== Sys2Proof/Laws/Decode.lean ====
section
/-!
SUPPORT. Fields of packed words, from which decoding an encoded instruction is computed.
-/

namespace Sys2Proof

/-- A field of nothing is 0. -/
@[simp] theorem fld_zero (lo w : Nat) : fld 0 lo w = 0 := by simp [fld]
/-- A field is below the power of two of its width. -/
theorem fld_lt (x lo w : Nat) : fld x lo w < 2 ^ w := Nat.mod_lt _ (Nat.two_pow_pos w)

/-- The first field of a packed word. -/
theorem fld_pack_here (n v : Nat) (l : List (Nat × Nat)) : fld (pack ((n, v) :: l)) 0 n = v % 2 ^ n := by
  simp [fld, pack, Nat.add_mul_mod_self_left]

/-- A field above the first. -/
theorem fld_pack_there (n v lo w : Nat) (l : List (Nat × Nat)) (h : n ≤ lo) :
    fld (pack ((n, v) :: l)) lo w = fld (pack l) (lo - n) w := by
  have e : 2 ^ lo = 2 ^ n * 2 ^ (lo - n) := by rw [← Nat.pow_add]; congr 1; omega
  have hv : v % 2 ^ n < 2 ^ n := Nat.mod_lt _ (Nat.two_pow_pos n)
  simp only [fld, pack, e]
  rw [← Nat.div_div_eq_div_mul, Nat.add_mul_div_left _ _ (Nat.two_pow_pos n), Nat.div_eq_of_lt hv, Nat.zero_add]

/-- A field that takes in the first one and more. -/
theorem fld_pack_span (n v w : Nat) (l : List (Nat × Nat)) (h : n < w) :
    fld (pack ((n, v) :: l)) 0 w = v % 2 ^ n + 2 ^ n * fld (pack l) 0 (w - n) := by
  have e : 2 ^ w = 2 ^ n * 2 ^ (w - n) := by rw [← Nat.pow_add]; congr 1; omega
  have hv : v % 2 ^ n < 2 ^ n := Nat.mod_lt _ (Nat.two_pow_pos n)
  simp only [fld, pack, e, Nat.pow_zero, Nat.div_one]
  rw [Nat.mod_mul, Nat.add_mul_mod_self_left, Nat.mod_eq_of_lt hv, Nat.add_mul_div_left _ _ (Nat.two_pow_pos n),
    Nat.div_eq_of_lt hv, Nat.zero_add]

/-- Part of the first field. -/
theorem fld_pack_part (n v lo w : Nat) (l : List (Nat × Nat)) (h : lo + w ≤ n) :
    fld (pack ((n, v) :: l)) lo w = fld v lo w := by
  simp only [fld, pack]
  have e : 2 ^ n = 2 ^ lo * (2 ^ w * 2 ^ (n - lo - w)) := by
    rw [← Nat.pow_add, ← Nat.pow_add]; congr 1; omega
  generalize pack l = p
  have : v % 2 ^ n + 2 ^ n * p = v + 2 ^ n * p - 2 ^ n * (v / 2 ^ n) := by
    have := Nat.div_add_mod v (2 ^ n); omega
  have h1 : (v % 2 ^ n + 2 ^ n * p) / 2 ^ lo % 2 ^ w = (v % 2 ^ n) / 2 ^ lo % 2 ^ w := by
    rw [e, Nat.mul_assoc, Nat.add_mul_div_left _ _ (Nat.two_pow_pos lo), Nat.mul_assoc, Nat.add_mul_mod_self_left]
  rw [h1, e, Nat.mod_mul, Nat.add_mul_div_left _ _ (Nat.two_pow_pos lo), Nat.mod_mul]
  rw [Nat.div_eq_of_lt (Nat.mod_lt _ (Nat.two_pow_pos lo)), Nat.zero_add, Nat.add_mul_mod_self_left, Nat.mod_mod]

/-- Bits as numbers. -/
@[simp] theorem toNat_mod_two (b : Bool) : b.toNat % 2 = b.toNat := by cases b <;> rfl
@[simp] theorem toNat_beq_one (b : Bool) : (b.toNat == 1) = b := by cases b <;> rfl

/-- A slot word passes its check when it stands for a well-formed instruction that the slot takes and its zero fields are zero. -/
theorem checkSlot_ok {house : Bool} {raw : Option (Instr × List (Nat × Nat))} {accept : Instr → Bool} {w : Nat} {i : Instr}
    {z : List (Nat × Nat)} (hr : raw = some (i, z)) (ha : accept i = true) (hh : (house && i.houseRefused) = false)
    (hz : zeros z w = true) (hw : i.wf = true) : checkSlot ⟨house, true⟩ raw accept Instr.inRange w = .ok i := by
  simp only [Instr.wf, Bool.and_eq_true] at hw
  subst hr
  cases house <;> simp_all [checkSlot]

end Sys2Proof
end

