-- ==== Sys2Proof/Laws/Exec.lean ====
section
/-!
SUPPORT. Which meaning each constructor runs: one lemma per arm of `exec`.
-/

namespace Sys2Proof.Machine

@[simp] theorem exec_nop (s : State) :
    exec (.nop) s = execNop s := rfl
@[simp] theorem exec_add (sd sa sb : Nat) (s : State) :
    exec (.add sd sa sb) s = execAdd sd sa sb s := rfl
@[simp] theorem exec_sub (sd sa sb : Nat) (s : State) :
    exec (.sub sd sa sb) s = execSub sd sa sb s := rfl
@[simp] theorem exec_mul (sd sa sb : Nat) (s : State) :
    exec (.mul sd sa sb) s = execMul sd sa sb s := rfl
@[simp] theorem exec_mulhs (sd sa sb : Nat) (s : State) :
    exec (.mulhs sd sa sb) s = execMulhs sd sa sb s := rfl
@[simp] theorem exec_mulhu (sd sa sb : Nat) (s : State) :
    exec (.mulhu sd sa sb) s = execMulhu sd sa sb s := rfl
@[simp] theorem exec_divs (sd sa sb : Nat) (s : State) :
    exec (.divs sd sa sb) s = execDivs sd sa sb s := rfl
@[simp] theorem exec_divu (sd sa sb : Nat) (s : State) :
    exec (.divu sd sa sb) s = execDivu sd sa sb s := rfl
@[simp] theorem exec_rems (sd sa sb : Nat) (s : State) :
    exec (.rems sd sa sb) s = execRems sd sa sb s := rfl
@[simp] theorem exec_remu (sd sa sb : Nat) (s : State) :
    exec (.remu sd sa sb) s = execRemu sd sa sb s := rfl
@[simp] theorem exec_and (sd sa sb : Nat) (s : State) :
    exec (.and sd sa sb) s = execAnd sd sa sb s := rfl
@[simp] theorem exec_or (sd sa sb : Nat) (s : State) :
    exec (.or sd sa sb) s = execOr sd sa sb s := rfl
@[simp] theorem exec_xor (sd sa sb : Nat) (s : State) :
    exec (.xor sd sa sb) s = execXor sd sa sb s := rfl
@[simp] theorem exec_andn (sd sa sb : Nat) (s : State) :
    exec (.andn sd sa sb) s = execAndn sd sa sb s := rfl
@[simp] theorem exec_shl (sd sa sb : Nat) (s : State) :
    exec (.shl sd sa sb) s = execShl sd sa sb s := rfl
@[simp] theorem exec_shr (sd sa sb : Nat) (s : State) :
    exec (.shr sd sa sb) s = execShr sd sa sb s := rfl
@[simp] theorem exec_sar (sd sa sb : Nat) (s : State) :
    exec (.sar sd sa sb) s = execSar sd sa sb s := rfl
@[simp] theorem exec_rol (sd sa sb : Nat) (s : State) :
    exec (.rol sd sa sb) s = execRol sd sa sb s := rfl
@[simp] theorem exec_min (sd sa sb : Nat) (s : State) :
    exec (.min sd sa sb) s = execMin sd sa sb s := rfl
@[simp] theorem exec_max (sd sa sb : Nat) (s : State) :
    exec (.max sd sa sb) s = execMax sd sa sb s := rfl
@[simp] theorem exec_minu (sd sa sb : Nat) (s : State) :
    exec (.minu sd sa sb) s = execMinu sd sa sb s := rfl
@[simp] theorem exec_maxu (sd sa sb : Nat) (s : State) :
    exec (.maxu sd sa sb) s = execMaxu sd sa sb s := rfl
@[simp] theorem exec_clz (sd sa : Nat) (s : State) :
    exec (.clz sd sa) s = execClz sd sa s := rfl
@[simp] theorem exec_popc (sd sa : Nat) (s : State) :
    exec (.popc sd sa) s = execPopc sd sa s := rfl
@[simp] theorem exec_sel (sd p sa sb : Nat) (s : State) :
    exec (.sel sd p sa sb) s = execSel sd p sa sb s := rfl
@[simp] theorem exec_rotm (sd sa sb sc : Nat) (s : State) :
    exec (.rotm sd sa sb sc) s = execRotm sd sa sb sc s := rfl
@[simp] theorem exec_addi (sd sa : Nat) (imm : BitVec 20) (s : State) :
    exec (.addi sd sa imm) s = execAddi sd sa imm s := rfl
@[simp] theorem exec_andi (sd sa : Nat) (imm : BitVec 20) (s : State) :
    exec (.andi sd sa imm) s = execAndi sd sa imm s := rfl
@[simp] theorem exec_ori (sd sa : Nat) (imm : BitVec 20) (s : State) :
    exec (.ori sd sa imm) s = execOri sd sa imm s := rfl
@[simp] theorem exec_xori (sd sa : Nat) (imm : BitVec 20) (s : State) :
    exec (.xori sd sa imm) s = execXori sd sa imm s := rfl
@[simp] theorem exec_shli (sd sa : Nat) (imm : BitVec 20) (s : State) :
    exec (.shli sd sa imm) s = execShli sd sa imm s := rfl
@[simp] theorem exec_shri (sd sa : Nat) (imm : BitVec 20) (s : State) :
    exec (.shri sd sa imm) s = execShri sd sa imm s := rfl
@[simp] theorem exec_sari (sd sa : Nat) (imm : BitVec 20) (s : State) :
    exec (.sari sd sa imm) s = execSari sd sa imm s := rfl
@[simp] theorem exec_movk (sd hw : Nat) (imm : BitVec 16) (s : State) :
    exec (.movk sd hw imm) s = execMovk sd hw imm s := rfl
@[simp] theorem exec_ext (sd sa pos len : Nat) (s : State) :
    exec (.ext sd sa pos len) s = execExt sd sa pos len s := rfl
@[simp] theorem exec_exts (sd sa pos len : Nat) (s : State) :
    exec (.exts sd sa pos len) s = execExts sd sa pos len s := rfl
@[simp] theorem exec_ins (sd sa pos len : Nat) (s : State) :
    exec (.ins sd sa pos len) s = execIns sd sa pos len s := rfl
@[simp] theorem exec_cmp (pd : Nat) (cond : Nat) (sa sb : Nat) (s : State) :
    exec (.cmp pd cond sa sb) s = execCmp pd cond sa sb s := rfl
@[simp] theorem exec_cmpi (pd : Nat) (cond : Nat) (sa : Nat) (imm : BitVec 18) (s : State) :
    exec (.cmpi pd cond sa imm) s = execCmpi pd cond sa imm s := rfl
@[simp] theorem exec_pand (pd pa pb : Nat) (na nb : Bool) (s : State) :
    exec (.pand pd pa pb na nb) s = execPand pd pa pb na nb s := rfl
@[simp] theorem exec_por (pd pa pb : Nat) (na nb : Bool) (s : State) :
    exec (.por pd pa pb na nb) s = execPor pd pa pb na nb s := rfl
@[simp] theorem exec_pxor (pd pa pb : Nat) (na nb : Bool) (s : State) :
    exec (.pxor pd pa pb na nb) s = execPxor pd pa pb na nb s := rfl
@[simp] theorem exec_pandn (pd pa pb : Nat) (na nb : Bool) (s : State) :
    exec (.pandn pd pa pb na nb) s = execPandn pd pa pb na nb s := rfl
@[simp] theorem exec_pset (pd : Nat) (val : Bool) (s : State) :
    exec (.pset pd val) s = execPset pd val s := rfl
@[simp] theorem exec_ldw (sx tl c w : Nat) (s : State) :
    exec (.ldw sx tl c w) s = execLdw sx tl c w s := rfl
@[simp] theorem exec_stw (sx tl c w : Nat) (s : State) :
    exec (.stw sx tl c w) s = execStw sx tl c w s := rfl
@[simp] theorem exec_ldrow (sx tl c w : Nat) (s : State) :
    exec (.ldrow sx tl c w) s = execLdrow sx tl c w s := rfl
@[simp] theorem exec_strow (sx tl c w : Nat) (s : State) :
    exec (.strow sx tl c w) s = execStrow sx tl c w s := rfl
@[simp] theorem exec_csrr (sx csr : Nat) (s : State) :
    exec (.csrr sx csr) s = execCsrr sx csr s := rfl
@[simp] theorem exec_csrw (sx csr : Nat) (s : State) :
    exec (.csrw sx csr) s = execCsrw sx csr s := rfl
@[simp] theorem exec_csrrp (sx csr : Nat) (s : State) :
    exec (.csrrp sx csr) s = execCsrrp sx csr s := rfl
@[simp] theorem exec_csrwp (sx csr : Nat) (s : State) :
    exec (.csrwp sx csr) s = execCsrwp sx csr s := rfl
@[simp] theorem exec_br (p : Nat) (t : Bool) (off : BitVec 27) (s : State) :
    exec (.br p t off) s = execBr p t off s := rfl
@[simp] theorem exec_jmp (addr : Nat) (s : State) :
    exec (.jmp addr) s = execJmp addr s := rfl
@[simp] theorem exec_jmpr (sa : Nat) (s : State) :
    exec (.jmpr sa) s = execJmpr sa s := rfl
@[simp] theorem exec_call (sd : Nat) (off : BitVec 26) (s : State) :
    exec (.call sd off) s = execCall sd off s := rfl
@[simp] theorem exec_ret (sa : Nat) (s : State) :
    exec (.ret sa) s = execRet sa s := rfl
@[simp] theorem exec_loop (sa len : Nat) (s : State) :
    exec (.loop sa len) s = execLoop sa len s := rfl
@[simp] theorem exec_loopq (q len : Nat) (s : State) :
    exec (.loopq q len) s = execLoopq q len s := rfl
@[simp] theorem exec_loopswp (sa len e : Nat) (s : State) :
    exec (.loopswp sa len e) s = execLoopswp sa len e s := rfl
@[simp] theorem exec_lbrk (s : State) :
    exec (.lbrk) s = execLbrk s := rfl
@[simp] theorem exec_ssend (lc : Nat) (s : State) :
    exec (.ssend lc) s = execSsend lc s := rfl
@[simp] theorem exec_trap (code : Nat) (s : State) :
    exec (.trap code) s = execTrap code s := rfl
@[simp] theorem exec_tret (s : State) :
    exec (.tret) s = execTret s := rfl
@[simp] theorem exec_rcbld (sd sa : Nat) (s : State) :
    exec (.rcbld sd sa) s = execRcbld sd sa s := rfl
@[simp] theorem exec_aread (tl c : Nat) (s : State) :
    exec (.aread tl c) s = execAread tl c s := rfl
@[simp] theorem exec_awrite (tl c : Nat) (s : State) :
    exec (.awrite tl c) s = execAwrite tl c s := rfl
@[simp] theorem exec_arw (tr cr tw cw : Nat) (s : State) :
    exec (.arw tr cr tw cw) s = execArw tr cr tw cw s := rfl
@[simp] theorem exec_adiag (tl c : Nat) (wr : Bool) (s : State) :
    exec (.adiag tl c wr) s = execAdiag tl c wr s := rfl
@[simp] theorem exec_tlw (tl sx : Nat) (s : State) :
    exec (.tlw tl sx) s = execTlw tl sx s := rfl
@[simp] theorem exec_tlr (tl sx : Nat) (s : State) :
    exec (.tlr tl sx) s = execTlr tl sx s := rfl
@[simp] theorem exec_cset (c d sx : Nat) (s : State) :
    exec (.cset c d sx) s = execCset c d sx s := rfl
@[simp] theorem exec_cget (c d sx : Nat) (s : State) :
    exec (.cget c d sx) s = execCget c d sx s := rfl
@[simp] theorem exec_cinc (c d : Nat) (imm : BitVec 19) (s : State) :
    exec (.cinc c d imm) s = execCinc c d imm s := rfl
@[simp] theorem exec_cstep (c b : Nat) (s : State) :
    exec (.cstep c b) s = execCstep c b s := rfl
@[simp] theorem exec_xsolve (xw vs pd : Nat) (s : State) :
    exec (.xsolve xw vs pd) s = execXsolve xw vs pd s := rfl
@[simp] theorem exec_xsolveComplete (die : Nat) (s : State) :
    exec (.xsolveComplete die) s = execXsolveComplete die s := rfl
@[simp] theorem exec_xload (xw tl c : Nat) (s : State) :
    exec (.xload xw tl c) s = execXload xw tl c s := rfl
@[simp] theorem exec_xsave (xw tl c : Nat) (s : State) :
    exec (.xsave xw tl c) s = execXsave xw tl c s := rfl
@[simp] theorem exec_vadd (a : VArgs) (s : State) :
    exec (.vadd a) s = execVadd a s := rfl
@[simp] theorem exec_vsub (a : VArgs) (s : State) :
    exec (.vsub a) s = execVsub a s := rfl
@[simp] theorem exec_vmul (a : VArgs) (s : State) :
    exec (.vmul a) s = execVmul a s := rfl
@[simp] theorem exec_vfma (a : VArgs) (s : State) :
    exec (.vfma a) s = execVfma a s := rfl
@[simp] theorem exec_vmin (a : VArgs) (s : State) :
    exec (.vmin a) s = execVmin a s := rfl
@[simp] theorem exec_vmax (a : VArgs) (s : State) :
    exec (.vmax a) s = execVmax a s := rfl
@[simp] theorem exec_vabs (a : VArgs) (s : State) :
    exec (.vabs a) s = execVabs a s := rfl
@[simp] theorem exec_vneg (a : VArgs) (s : State) :
    exec (.vneg a) s = execVneg a s := rfl
@[simp] theorem exec_vand (a : VArgs) (s : State) :
    exec (.vand a) s = execVand a s := rfl
@[simp] theorem exec_vor (a : VArgs) (s : State) :
    exec (.vor a) s = execVor a s := rfl
@[simp] theorem exec_vxor (a : VArgs) (s : State) :
    exec (.vxor a) s = execVxor a s := rfl
@[simp] theorem exec_vnot (a : VArgs) (s : State) :
    exec (.vnot a) s = execVnot a s := rfl
@[simp] theorem exec_vshl (a : VArgs) (s : State) :
    exec (.vshl a) s = execVshl a s := rfl
@[simp] theorem exec_vshr (a : VArgs) (s : State) :
    exec (.vshr a) s = execVshr a s := rfl
@[simp] theorem exec_vsar (a : VArgs) (s : State) :
    exec (.vsar a) s = execVsar a s := rfl
@[simp] theorem exec_vsel (a : VArgs) (s : State) :
    exec (.vsel a) s = execVsel a s := rfl
@[simp] theorem exec_vcmpeq (a : VArgs) (s : State) :
    exec (.vcmpeq a) s = execVcmpeq a s := rfl
@[simp] theorem exec_vcmplt (a : VArgs) (s : State) :
    exec (.vcmplt a) s = execVcmplt a s := rfl
@[simp] theorem exec_vcmple (a : VArgs) (s : State) :
    exec (.vcmple a) s = execVcmple a s := rfl
@[simp] theorem exec_vcmpne (a : VArgs) (s : State) :
    exec (.vcmpne a) s = execVcmpne a s := rfl
@[simp] theorem exec_vmov (a : VArgs) (s : State) :
    exec (.vmov a) s = execVmov a s := rfl
@[simp] theorem exec_vcvt (a : VArgs) (s : State) :
    exec (.vcvt a) s = execVcvt a s := rfl
@[simp] theorem exec_vquant (a : VArgs) (s : State) :
    exec (.vquant a) s = execVquant a s := rfl
@[simp] theorem exec_vdeq (a : VArgs) (s : State) :
    exec (.vdeq a) s = execVdeq a s := rfl
@[simp] theorem exec_vexp2 (a : VArgs) (s : State) :
    exec (.vexp2 a) s = execVexp2 a s := rfl
@[simp] theorem exec_vlog2 (a : VArgs) (s : State) :
    exec (.vlog2 a) s = execVlog2 a s := rfl
@[simp] theorem exec_vrcp (a : VArgs) (s : State) :
    exec (.vrcp a) s = execVrcp a s := rfl
@[simp] theorem exec_vrsq (a : VArgs) (s : State) :
    exec (.vrsq a) s = execVrsq a s := rfl
@[simp] theorem exec_vgelu (a : VArgs) (s : State) :
    exec (.vgelu a) s = execVgelu a s := rfl
@[simp] theorem exec_vrotr (a : VArgs) (s : State) :
    exec (.vrotr a) s = execVrotr a s := rfl
@[simp] theorem exec_vrotc (a : VArgs) (s : State) :
    exec (.vrotc a) s = execVrotc a s := rfl
@[simp] theorem exec_vbcr (a : VArgs) (s : State) :
    exec (.vbcr a) s = execVbcr a s := rfl
@[simp] theorem exec_vbcc (a : VArgs) (s : State) :
    exec (.vbcc a) s = execVbcc a s := rfl
@[simp] theorem exec_vredr (a : VArgs) (s : State) :
    exec (.vredr a) s = execVredr a s := rfl
@[simp] theorem exec_vredc (a : VArgs) (s : State) :
    exec (.vredc a) s = execVredc a s := rfl
@[simp] theorem exec_vscanr (a : VArgs) (s : State) :
    exec (.vscanr a) s = execVscanr a s := rfl
@[simp] theorem exec_vscanc (a : VArgs) (s : State) :
    exec (.vscanc a) s = execVscanc a s := rfl
@[simp] theorem exec_vld (a : VArgs) (s : State) :
    exec (.vld a) s = execVld a s := rfl
@[simp] theorem exec_vst (a : VArgs) (s : State) :
    exec (.vst a) s = execVst a s := rfl
@[simp] theorem exec_vmovs (a : VArgs) (s : State) :
    exec (.vmovs a) s = execVmovs a s := rfl
@[simp] theorem exec_vsplat (a : VArgs) (s : State) :
    exec (.vsplat a) s = execVsplat a s := rfl
@[simp] theorem exec_viota (a : VArgs) (s : State) :
    exec (.viota a) s = execViota a s := rfl
@[simp] theorem exec_vrand (a : VArgs) (s : State) :
    exec (.vrand a) s = execVrand a s := rfl
@[simp] theorem exec_vpack (a : VArgs) (s : State) :
    exec (.vpack a) s = execVpack a s := rfl
@[simp] theorem exec_vunpk (a : VArgs) (s : State) :
    exec (.vunpk a) s = execVunpk a s := rfl
@[simp] theorem exec_mloadb (a : MArgs) (s : State) :
    exec (.mloadb a) s = execMloadb a s := rfl
@[simp] theorem exec_mma (a : MArgs) (s : State) :
    exec (.mma a) s = execMma a s := rfl
@[simp] theorem exec_mmag (a : MArgs) (s : State) :
    exec (.mmag a) s = execMmag a s := rfl
@[simp] theorem exec_mmac (a : MArgs) (s : State) :
    exec (.mmac a) s = execMmac a s := rfl
@[simp] theorem exec_mrank (a : MArgs) (s : State) :
    exec (.mrank a) s = execMrank a s := rfl
@[simp] theorem exec_mzero (a : MArgs) (s : State) :
    exec (.mzero a) s = execMzero a s := rfl
@[simp] theorem exec_mepi (a : MArgs) (s : State) :
    exec (.mepi a) s = execMepi a s := rfl
@[simp] theorem exec_mepiLd (a : MArgs) (s : State) :
    exec (.mepiLd a) s = execMepiLd a s := rfl
@[simp] theorem exec_mdrain (a : MArgs) (s : State) :
    exec (.mdrain a) s = execMdrain a s := rfl
@[simp] theorem exec_mshape (a : MArgs) (s : State) :
    exec (.mshape a) s = execMshape a s := rfl
@[simp] theorem exec_mstat (a : MArgs) (s : State) :
    exec (.mstat a) s = execMstat a s := rfl
@[simp] theorem exec_mtest (a : MArgs) (s : State) :
    exec (.mtest a) s = execMtest a s := rfl
@[simp] theorem exec_selftestCnt (die : Nat) (s : State) :
    exec (.selftestCnt die) s = execSelftestCnt die s := rfl
@[simp] theorem exec_followOnStart (die : Nat) (s : State) :
    exec (.followOnStart die) s = execFollowOnStart die s := rfl
@[simp] theorem exec_followOnRetire (die : Nat) (s : State) :
    exec (.followOnRetire die) s = execFollowOnRetire die s := rfl
@[simp] theorem exec_kload (a : KArgs) (s : State) :
    exec (.kload a) s = execKload a s := rfl
@[simp] theorem exec_ksort (a : KArgs) (s : State) :
    exec (.ksort a) s = execKsort a s := rfl
@[simp] theorem exec_kstep (a : KArgs) (s : State) :
    exec (.kstep a) s = execKstep a s := rfl
@[simp] theorem exec_kmerge (a : KArgs) (s : State) :
    exec (.kmerge a) s = execKmerge a s := rfl
@[simp] theorem exec_ktopk (a : KArgs) (s : State) :
    exec (.ktopk a) s = execKtopk a s := rfl
@[simp] theorem exec_kstore (a : KArgs) (s : State) :
    exec (.kstore a) s = execKstore a s := rfl
@[simp] theorem exec_kstateRd (a : KArgs) (s : State) :
    exec (.kstateRd a) s = execKstateRd a s := rfl
@[simp] theorem exec_kstateWr (a : KArgs) (s : State) :
    exec (.kstateWr a) s = execKstateWr a s := rfl
@[simp] theorem exec_ccopy (a : CArgs) (s : State) :
    exec (.ccopy a) s = execCcopy a s := rfl
@[simp] theorem exec_ccopyf (a : CArgs) (s : State) :
    exec (.ccopyf a) s = execCcopyf a s := rfl
@[simp] theorem exec_cfill (a : CArgs) (s : State) :
    exec (.cfill a) s = execCfill a s := rfl
@[simp] theorem exec_cgather (a : CArgs) (s : State) :
    exec (.cgather a) s = execCgather a s := rfl
@[simp] theorem exec_cscatter (a : CArgs) (s : State) :
    exec (.cscatter a) s = execCscatter a s := rfl
@[simp] theorem exec_cdispatch (a : CArgs) (s : State) :
    exec (.cdispatch a) s = execCdispatch a s := rfl
@[simp] theorem exec_ccombine (a : CArgs) (s : State) :
    exec (.ccombine a) s = execCcombine a s := rfl
@[simp] theorem exec_cwait (a : CArgs) (s : State) :
    exec (.cwait a) s = execCwait a s := rfl
@[simp] theorem exec_cstatus (a : CArgs) (s : State) :
    exec (.cstatus a) s = execCstatus a s := rfl
@[simp] theorem exec_migrate (a : CArgs) (s : State) :
    exec (.migrate a) s = execMigrate a s := rfl
@[simp] theorem exec_nodeLaunch (die node : Nat) (s : State) :
    exec (.nodeLaunch die node) s = execNodeLaunch die node s := rfl
@[simp] theorem exec_copyRowArrival (acc : Nat) (s : State) :
    exec (.copyRowArrival acc) s = execCopyRowArrival acc s := rfl
@[simp] theorem exec_nodeRetire (die node : Nat) (s : State) :
    exec (.nodeRetire die node) s = execNodeRetire die node s := rfl
@[simp] theorem exec_ldrem (a : YArgs) (s : State) :
    exec (.ldrem a) s = execLdrem a s := rfl
@[simp] theorem exec_strem (a : YArgs) (s : State) :
    exec (.strem a) s = execStrem a s := rfl
@[simp] theorem exec_atom (a : YArgs) (s : State) :
    exec (.atom a) s = execAtom a s := rfl
@[simp] theorem exec_scrmw (a : YArgs) (s : State) :
    exec (.scrmw a) s = execScrmw a s := rfl
@[simp] theorem exec_red (a : YArgs) (s : State) :
    exec (.red a) s = execRed a s := rfl
@[simp] theorem exec_scld (a : YArgs) (s : State) :
    exec (.scld a) s = execScld a s := rfl
@[simp] theorem exec_scst (a : YArgs) (s : State) :
    exec (.scst a) s = execScst a s := rfl
@[simp] theorem exec_wheelPositionIssue (die : Nat) (s : State) :
    exec (.wheelPositionIssue die) s = execWheelPositionIssue die s := rfl
@[simp] theorem exec_drain (q sx : Nat) (s : State) :
    exec (.drain q sx) s = execDrain q sx s := rfl
@[simp] theorem exec_fenced (q sx : Nat) (s : State) :
    exec (.fenced q sx) s = execFenced q sx s := rfl
@[simp] theorem exec_fencep (sm dm : Nat) (s : State) :
    exec (.fencep sm dm) s = execFencep sm dm s := rfl
@[simp] theorem exec_binit (b sx pd sd : Nat) (s : State) :
    exec (.binit b sx pd sd) s = execBinit b sx pd sd s := rfl
@[simp] theorem exec_barr (b sx pd sd : Nat) (s : State) :
    exec (.barr b sx pd sd) s = execBarr b sx pd sd s := rfl
@[simp] theorem exec_bwait (b sx pd sd : Nat) (s : State) :
    exec (.bwait b sx pd sd) s = execBwait b sx pd sd s := rfl
@[simp] theorem exec_bwaitTimeout (die : Nat) (s : State) :
    exec (.bwaitTimeout die) s = execBwaitTimeout die s := rfl
@[simp] theorem exec_send (a : YArgs) (s : State) :
    exec (.send a) s = execSend a s := rfl
@[simp] theorem exec_recv (a : YArgs) (s : State) :
    exec (.recv a) s = execRecv a s := rfl
@[simp] theorem exec_waita (tl c sx pd : Nat) (s : State) :
    exec (.waita tl c sx pd) s = execWaita tl c sx pd s := rfl
@[simp] theorem exec_waitaTimeout (die : Nat) (s : State) :
    exec (.waitaTimeout die) s = execWaitaTimeout die s := rfl
@[simp] theorem exec_monitorTrigger (die mon : Nat) (s : State) :
    exec (.monitorTrigger die mon) s = execMonitorTrigger die mon s := rfl
@[simp] theorem exec_monclr (a : YArgs) (s : State) :
    exec (.monclr a) s = execMonclr a s := rfl
@[simp] theorem exec_cqpush (q sx : Nat) (s : State) :
    exec (.cqpush q sx) s = execCqpush q sx s := rfl
@[simp] theorem exec_cqpop (q sx : Nat) (s : State) :
    exec (.cqpop q sx) s = execCqpop q sx s := rfl
@[simp] theorem exec_osend (a : YArgs) (s : State) :
    exec (.osend a) s = execOsend a s := rfl
@[simp] theorem exec_ostat (q sx : Nat) (s : State) :
    exec (.ostat q sx) s = execOstat q sx s := rfl
@[simp] theorem exec_atcinv (q sx : Nat) (s : State) :
    exec (.atcinv q sx) s = execAtcinv q sx s := rfl
@[simp] theorem exec_plread (a : YArgs) (s : State) :
    exec (.plread a) s = execPlread a s := rfl
@[simp] theorem exec_plwrite (a : YArgs) (s : State) :
    exec (.plwrite a) s = execPlwrite a s := rfl
@[simp] theorem exec_fwait (q sx : Nat) (s : State) :
    exec (.fwait q sx) s = execFwait q sx s := rfl
@[simp] theorem exec_fwaitTimeout (die : Nat) (s : State) :
    exec (.fwaitTimeout die) s = execFwaitTimeout die s := rfl
@[simp] theorem exec_firmwareEvent (bit : Nat) (s : State) :
    exec (.firmwareEvent bit) s = execFirmwareEvent bit s := rfl
@[simp] theorem exec_mmld (a : YArgs) (s : State) :
    exec (.mmld a) s = execMmld a s := rfl
@[simp] theorem exec_mmst (a : YArgs) (s : State) :
    exec (.mmst a) s = execMmst a s := rfl
@[simp] theorem exec_slogreplay (q sx : Nat) (s : State) :
    exec (.slogreplay q sx) s = execSlogreplay q sx s := rfl
@[simp] theorem exec_landingArrival (acc : Nat) (s : State) :
    exec (.landingArrival acc) s = execLandingArrival acc s := rfl
@[simp] theorem exec_namedCycleHold (die : Nat) (s : State) :
    exec (.namedCycleHold die) s = execNamedCycleHold die s := rfl
@[simp] theorem exec_packageBarrierComplete (launch : Nat) (s : State) :
    exec (.packageBarrierComplete launch) s = execPackageBarrierComplete launch s := rfl
@[simp] theorem exec_commPhaseEnd (die : Nat) (s : State) :
    exec (.commPhaseEnd die) s = execCommPhaseEnd die s := rfl
@[simp] theorem exec_redWindowExpire (die entry : Nat) (s : State) :
    exec (.redWindowExpire die entry) s = execRedWindowExpire die entry s := rfl
@[simp] theorem exec_flitReceive (die link : Nat) (flit : BitVec 2048) (s : State) :
    exec (.flitReceive die link flit) s = execFlitReceive die link flit s := rfl
@[simp] theorem exec_msgRd (acc : Nat) (s : State) :
    exec (.msgRd acc) s = execMsgRd acc s := rfl
@[simp] theorem exec_msgWr (acc : Nat) (s : State) :
    exec (.msgWr acc) s = execMsgWr acc s := rfl
@[simp] theorem exec_msgAt (acc : Nat) (s : State) :
    exec (.msgAt acc) s = execMsgAt acc s := rfl
@[simp] theorem exec_msgRs (acc : Nat) (s : State) :
    exec (.msgRs acc) s = execMsgRs acc s := rfl
@[simp] theorem exec_msgXf (acc : Nat) (s : State) :
    exec (.msgXf acc) s = execMsgXf acc s := rfl
@[simp] theorem exec_msgMg (kind : MgKind) (s : State) :
    exec (.msgMg kind) s = execMsgMg kind s := rfl
@[simp] theorem exec_routeNotice (acc home : Nat) (s : State) :
    exec (.routeNotice acc home) s = execRouteNotice acc home s := rfl
@[simp] theorem exec_discover (s : State) :
    exec (.discover) s = execDiscover s := rfl
@[simp] theorem exec_walkerResolve (acc : Nat) (s : State) :
    exec (.walkerResolve acc) s = execWalkerResolve acc s := rfl
@[simp] theorem exec_start (port : Nat) (sv : BitVec 512) (s : State) :
    exec (.start port sv) s = execStart port sv s := rfl
@[simp] theorem exec_svDrop (die port : Nat) (s : State) :
    exec (.svDrop die port) s = execSvDrop die port s := rfl
@[simp] theorem exec_launchPlace (launch : Nat) (s : State) :
    exec (.launchPlace launch) s = execLaunchPlace launch s := rfl
@[simp] theorem exec_completionWord (launch : Nat) (s : State) :
    exec (.completionWord launch) s = execCompletionWord launch s := rfl
@[simp] theorem exec_sliceEnd (launch : Nat) (s : State) :
    exec (.sliceEnd launch) s = execSliceEnd launch s := rfl
@[simp] theorem exec_preemptionPoint (die : Nat) (s : State) :
    exec (.preemptionPoint die) s = execPreemptionPoint die s := rfl
@[simp] theorem exec_contextRestore (launch : Nat) (s : State) :
    exec (.contextRestore launch) s = execContextRestore launch s := rfl
@[simp] theorem exec_holdTimeout (die : Nat) (s : State) :
    exec (.holdTimeout die) s = execHoldTimeout die s := rfl
@[simp] theorem exec_shadowEntry (die : Nat) (s : State) :
    exec (.shadowEntry die) s = execShadowEntry die s := rfl
@[simp] theorem exec_sideLogReplay (die unit : Nat) (s : State) :
    exec (.sideLogReplay die unit) s = execSideLogReplay die unit s := rfl
@[simp] theorem exec_atsResponse (die vpage : Nat) (grant : Option AtsGrant) (s : State) :
    exec (.atsResponse die vpage grant) s = execAtsResponse die vpage grant s := rfl
@[simp] theorem exec_atsInvalidation (va size : Nat) (s : State) :
    exec (.atsInvalidation va size) s = execAtsInvalidation va size s := rfl
@[simp] theorem exec_pageRequestGrant (die vpage : Nat) (granted : Bool) (s : State) :
    exec (.pageRequestGrant die vpage granted) s = execPageRequestGrant die vpage granted s := rfl
@[simp] theorem exec_hostMemoryAccess (port : Nat) (addr : HostAddr) (write : Option (BitVec 512 × BitVec 64)) (s : State) :
    exec (.hostMemoryAccess port addr write) s = execHostMemoryAccess port addr write s := rfl
@[simp] theorem exec_semRead (reader : Nat) (s : State) :
    exec (.semRead reader) s = execSemRead reader s := rfl
@[simp] theorem exec_semWrite (writer : Nat) (val : BitVec 64) (s : State) :
    exec (.semWrite writer val) s = execSemWrite writer val s := rfl
@[simp] theorem exec_rcbsync (port : Nat) (region : BitVec 16) (s : State) :
    exec (.rcbsync port region) s = execRcbsync port region s := rfl
@[simp] theorem exec_controlPortLinkReset (port : Nat) (s : State) :
    exec (.controlPortLinkReset port) s = execControlPortLinkReset port s := rfl
@[simp] theorem exec_packageCsrUpdate (die csr : Nat) (val : BitVec 64) (s : State) :
    exec (.packageCsrUpdate die csr val) s = execPackageCsrUpdate die csr val s := rfl
@[simp] theorem exec_directoryHeaderWrite (die : Nat) (s : State) :
    exec (.directoryHeaderWrite die) s = execDirectoryHeaderWrite die s := rfl
@[simp] theorem exec_directoryRootWrite (die index : Nat) (s : State) :
    exec (.directoryRootWrite die index) s = execDirectoryRootWrite die index s := rfl
@[simp] theorem exec_sweeperVisit (die : Nat) (s : State) :
    exec (.sweeperVisit die) s = execSweeperVisit die s := rfl
@[simp] theorem exec_heatWriteback (die leaf : Nat) (s : State) :
    exec (.heatWriteback die leaf) s = execHeatWriteback die leaf s := rfl
@[simp] theorem exec_cloveStart (die migration : Nat) (s : State) :
    exec (.cloveStart die migration) s = execCloveStart die migration s := rfl
@[simp] theorem exec_migrationRoundEnd (die migration : Nat) (s : State) :
    exec (.migrationRoundEnd die migration) s = execMigrationRoundEnd die migration s := rfl
@[simp] theorem exec_freezeFinalCopy (die migration : Nat) (s : State) :
    exec (.freezeFinalCopy die migration) s = execFreezeFinalCopy die migration s := rfl
@[simp] theorem exec_migrationCommit (die migration : Nat) (s : State) :
    exec (.migrationCommit die migration) s = execMigrationCommit die migration s := rfl
@[simp] theorem exec_freezeTimeout (die migration : Nat) (s : State) :
    exec (.freezeTimeout die migration) s = execFreezeTimeout die migration s := rfl
@[simp] theorem exec_dieReset (die : Nat) (s : State) :
    exec (.dieReset die) s = execDieReset die s := rfl
@[simp] theorem exec_packageReset (s : State) :
    exec (.packageReset) s = execPackageReset s := rfl
@[simp] theorem exec_rstctlDgo (port die : Nat) (s : State) :
    exec (.rstctlDgo port die) s = execRstctlDgo port die s := rfl
@[simp] theorem exec_rstctlPgo (port : Nat) (s : State) :
    exec (.rstctlPgo port) s = execRstctlPgo port s := rfl
@[simp] theorem exec_bringup (s : State) :
    exec (.bringup) s = execBringup s := rfl
@[simp] theorem exec_attreq (port addr : Nat) (s : State) :
    exec (.attreq port addr) s = execAttreq port addr s := rfl
@[simp] theorem exec_attestationReport (addr : Nat) (s : State) :
    exec (.attestationReport addr) s = execAttestationReport addr s := rfl
@[simp] theorem exec_linkDown (die link : Nat) (s : State) :
    exec (.linkDown die link) s = execLinkDown die link s := rfl
@[simp] theorem exec_opticalEpoch (s : State) :
    exec (.opticalEpoch) s = execOpticalEpoch s := rfl
@[simp] theorem exec_opticalSlotOpen (entry : Nat) (s : State) :
    exec (.opticalSlotOpen entry) s = execOpticalSlotOpen entry s := rfl
@[simp] theorem exec_opticalSlotClose (entry : Nat) (s : State) :
    exec (.opticalSlotClose entry) s = execOpticalSlotClose entry s := rfl
@[simp] theorem exec_routerEntryWrite (die entry : Nat) (val : BitVec 64) (s : State) :
    exec (.routerEntryWrite die entry val) s = execRouterEntryWrite die entry val s := rfl
@[simp] theorem exec_slotTableWrite (entry : Nat) (val : BitVec 64) (s : State) :
    exec (.slotTableWrite entry val) s = execSlotTableWrite entry val s := rfl
@[simp] theorem exec_tempSample (s : State) :
    exec (.tempSample) s = execTempSample s := rfl
@[simp] theorem exec_levelChangeApply (die stack : Nat) (s : State) :
    exec (.levelChangeApply die stack) s = execLevelChangeApply die stack s := rfl
@[simp] theorem exec_positionWithhold (die stack : Nat) (s : State) :
    exec (.positionWithhold die stack) s = execPositionWithhold die stack s := rfl
@[simp] theorem exec_positionReturn (die stack : Nat) (s : State) :
    exec (.positionReturn die stack) s = execPositionReturn die stack s := rfl
@[simp] theorem exec_hbmCrcRetry (acc lane : Nat) (s : State) :
    exec (.hbmCrcRetry acc lane) s = execHbmCrcRetry acc lane s := rfl
@[simp] theorem exec_liveRepairComplete (die stack pc lane : Nat) (s : State) :
    exec (.liveRepairComplete die stack pc lane) s = execLiveRepairComplete die stack pc lane s := rfl
@[simp] theorem exec_pcselWrite (die stack : Nat) (val : BitVec 64) (s : State) :
    exec (.pcselWrite die stack val) s = execPcselWrite die stack val s := rfl
@[simp] theorem exec_patctlGo (die stack : Nat) (val : BitVec 64) (s : State) :
    exec (.patctlGo die stack val) s = execPatctlGo die stack val s := rfl
@[simp] theorem exec_patternRunDone (die stack : Nat) (s : State) :
    exec (.patternRunDone die stack) s = execPatternRunDone die stack s := rfl
@[simp] theorem exec_eyectlGo (die stack : Nat) (val : BitVec 64) (s : State) :
    exec (.eyectlGo die stack val) s = execEyectlGo die stack val s := rfl
@[simp] theorem exec_eyeCaptureDone (die stack : Nat) (s : State) :
    exec (.eyeCaptureDone die stack) s = execEyeCaptureDone die stack s := rfl
@[simp] theorem exec_repairWrite (die stack : Nat) (val : BitVec 64) (s : State) :
    exec (.repairWrite die stack val) s = execRepairWrite die stack val s := rfl
@[simp] theorem exec_powerWindowEnd (die : Nat) (s : State) :
    exec (.powerWindowEnd die) s = execPowerWindowEnd die s := rfl
@[simp] theorem exec_governorHoldEnd (die : Nat) (s : State) :
    exec (.governorHoldEnd die) s = execGovernorHoldEnd die s := rfl
@[simp] theorem exec_registerWrite (die off : Nat) (val : BitVec 64) (s : State) :
    exec (.registerWrite die off val) s = execRegisterWrite die off val s := rfl
@[simp] theorem exec_wheelMarker (position : Nat) (s : State) :
    exec (.wheelMarker position) s = execWheelMarker position s := rfl
@[simp] theorem exec_opticalReceive (kind : OptKind) (s : State) :
    exec (.opticalReceive kind) s = execOpticalReceive kind s := rfl
@[simp] theorem exec_junctionCattrip (die : Nat) (s : State) :
    exec (.junctionCattrip die) s = execJunctionCattrip die s := rfl
@[simp] theorem exec_debuggerHalt (die : Nat) (on : Bool) (s : State) :
    exec (.debuggerHalt die on) s = execDebuggerHalt die on s := rfl
@[simp] theorem exec_powerGating (die : Nat) (on : Bool) (s : State) :
    exec (.powerGating die on) s = execPowerGating die on s := rfl

end Sys2Proof.Machine
end

