-- ==== Sys2Proof/Tests/Slice0.lean ====
section
/-!
SUPPORT. Tests of single operations, words written out from the encoding tables of the manual, and for every statement with
hypotheses a concrete state and operands that meet them.
-/

namespace Sys2Proof.Tests

open Sys2Proof Sys2Proof.Machine

/-! ### Well-formed terms (R122, R123) -/

/-- Fields wider than their place, operands out of range, and unused fields that are not zero: S and A slots. -/
theorem test_ill_formed_scalar :
    ([.add 64 0 0, .sel 0 16 0 0, .movk 0 4 0, .ldw 0 512 0 0, .ldw 0 0 32 0, .ldw 0 0 0 8, .jmp (2 ^ 32), .loop 0 0, .loop 0 65537,
      .loopq 4 1, .loopswp 0 1 8, .ssend 65536, .trap 256, .shli 0 0 64, .ext 0 0 60 5, .ext 0 0 0 0, .cmp 0 10 0 0, .ldrow 4 0 0 0,
      .ldrow 8 0 0 1, .csrr 0 0x100, .csrrp 0 0x104, .xload 4096 0 0, .cstep 0 32, .tlw 0 53, .cset 0 9 0] : List Instr).all
      (fun i => !i.wf) = true := by decide +kernel

/-- V slot. -/
theorem test_ill_formed_vector :
    let v : VArgs := ⟨0, false, 0, 0, 0, 0, 0, 0, 0, true, false, false⟩
    ([.vadd { v with vd := 2048 }, .vadd { v with unit := 3 }, .vadd { v with ss := 1 }, .vand { v with ty := true },
      .vcvt { v with x := 0x11 }, .vcvt { v with x := 0x16 }, .vquant { v with x := 1 }, .vdeq { v with x := 0x14 },
      .vexp2 { v with ty := true }, .vrotr { v with x := 0x40 }, .vrotc { v with x := 0x1001 }, .vredr { v with x := 6 },
      .vscanr { v with x := 3 }, .vld { v with vd := 2047, x := 1 }, .vst { v with vd := 1 }, .vmovs { v with x := 0x400 },
      .vpack { v with x := 3 }, .vunpk { v with x := 0x10 }] : List Instr).all (fun i => !i.wf) = true := by decide +kernel

/-- M, K, C and Y slots, and an event of a die the package has not. -/
theorem test_ill_formed_rest :
    let k : KArgs := ⟨0, 0, 1, false, false, 0⟩
    let m : MArgs := ⟨0, 0, 2, 0, 0, 0, 0, 0⟩
    let c : CArgs := ⟨0, 0, 0, 0, 0, 0, 0, 0, 0, 0⟩
    let y : YArgs := ⟨0, 0, 0, 1, 0⟩
    ([.mma { m with acc := 4 }, .mma { m with fa := 10 }, .mma { m with len := 16 }, .mma { m with fa := 6 }, .mma { m with vs := 1 },
      .mmag { m with fa := 4, epb := 1, vs := 2047 }, .mrank { m with fa := 4 }, .mloadb { m with fa := 0, fb := 11 },
      .mepi { m with fb := 1 }, .kload { k with kf := 9 }, .kload { k with dir := true }, .ksort { k with lr := 8 },
      .ccopy { c with tla := 512 }, .ccopy { c with p1 := 16 }, .migrate { c with ss := 63 }] ++
     [.ldrem { y with arr := 0 }, .ldrem { y with fn := 2 }, .strem { y with fn := 1, sx := 4 }, .atom { y with fn := 7, sx := 63 },
      .red { y with sx := 1 }, .scld { y with fn := 1 }, .recv { y with arr := 0 }, .monclr { y with fn := 2 }, .osend { y with sx := 2 },
      .mmld { y with fn := 1, sx := 3 }, .drain 4 0, .fencep 128 0, .binit 16 0 0 0, .atcinv 0 63, .nodeLaunch 12 0] :
      List Instr).all (fun i => !i.wf) = true := by decide +kernel

/-- The same terms in range are well formed. -/
theorem test_well_formed :
    let k : KArgs := ⟨0, 0, 1, false, false, 0⟩
    let m : MArgs := ⟨0, 0, 2, 0, 0, 0, 0, 0⟩
    let c : CArgs := ⟨0, 0, 0, 0, 0, 0, 0, 0, 0, 0⟩
    let y : YArgs := ⟨0, 0, 0, 1, 0⟩
    let v : VArgs := ⟨0, false, 0, 0, 0, 0, 0, 0, 0, true, false, false⟩
    ([.add 63 63 63, .movk 0 3 0xFFFF, .ldw 63 511 31 7, .loop 0 65536, .shli 0 0 63, .ext 0 0 60 4, .ldrow 56 0 0 0, .csrrp 0 0x2FF,
      .tlw 511 52, .cset 31 8 63, .vadd { v with vd := 2047 }, .vcvt { v with x := 0x12 }, .vld { v with vd := 2044, x := 3 },
      .vpack { v with x := 0x38 + 2 }, .mma { m with len := 15 }, .mmag { m with fa := 4, epb := 1, vs := 2046 },
      .mloadb { m with fa := 0, fb := 11, len := 16 }, .kload { k with lr := 7, lc := 7, kf := 10 }, .migrate { c with ss := 62 },
      .ldrem { y with fn := 1, sx := 56, arr := 2047 }, .atom { y with fn := 7, sx := 62 }, .nodeLaunch 11 0] : List Instr).all
      (fun i => i.wf) = true := by decide +kernel

/-! ### Words from the encoding tables (R126-R136) -/

/-- S slot: the entries' printed words. -/
theorem test_words_s :
    let f (w : Nat) := (decodeS ⟨false, true⟩ false w).toOption
    f 0x00_0020_4301 = some (.add 3 1 2) ∧ f 0x00_2005_5522 = some (.ori 21 21 0x200) ∧ f 0xFF_FFFF_B650 = some (.br 6 true (-3)) ∧
    f 0x00_0000_4555 = some (.loop 5 2) ∧ f 0x00_0042_894A = some (.csrrp 9 0x10A) ∧ f 0x00_0042_804B = some (.csrwp 0 0x10A) ∧
    f 0x00_0002_6048 = some (.csrr 32 0x009) ∧ f 0x5B = some .tret ∧ f 0x00_0001_C45C = some (.rcbld 4 7) := by decide +kernel

/-- A slot. -/
theorem test_words_a :
    let f (w : Nat) := (decodeA ⟨false, true⟩ w).toOption
    f 0x00_0001_0101 = some (.aread 4 2) ∧ f 0x00_000A_0288 = some (.tlw 10 20) := by decide +kernel

/-- V slot: a scan, and the cascade of the bundle taken apart in chapter 06. -/
theorem test_words_v :
    (decodeV 0x41_0000_0000_0000_0060_2800_0046).toOption = some [.vscanr ⟨0, true, 40, 12, 0, 0, 0, 0, 8, true, false, false⟩] ∧
    (decodeV 0x0E00_0000_6400_0150).toOption = some [.vld ⟨0, false, 100, 0, 0, 7, 0, 0, 0, false, true, false⟩,
      .vadd ⟨1, false, 100, 0, 7, 7, 0, 0, 0, true, true, false⟩] := by
  decide +kernel

/-- M slot: MMA.BF16 acc1, 16, s12 and MEPI acc1, 16, s13, ep5. -/
theorem test_words_m :
    let f (w : Nat) := (decodeM ⟨false, true⟩ w).toOption
    f 0x00_000C_003C_0842 = some (.mma ⟨1, 0, 2, 0, 15, 0, 12, 0⟩) ∧
    f 0x00_000D_143C_0047 = some (.mepi ⟨1, 0, 0, 0, 15, 5, 13, 0⟩) := by decide +kernel

/-- K slot: KLOAD.INT32 and KSORT.INT32. -/
theorem test_words_k :
    let f (w : Nat) := (decodeK ⟨false, true⟩ w).toOption
    f 0x00_2881 = some (.kload ⟨0, 1, 10, false, false, 0⟩) ∧ f 0x00_2882 = some (.ksort ⟨0, 1, 10, false, false, 0⟩) := by decide +kernel

/-- C slot: CCOPY tl5, c1, tl9, c2, c3, s40, 2 and MIGRATE tl6, c1, s20. -/
theorem test_words_c :
    (decodeC ⟨false, true⟩ 0x14_010C_4090_8141 0).toOption = some (.ccopy ⟨5, 1, 9, 2, 3, 2, 0, 40, 0, 0⟩) ∧
    (decodeC ⟨false, true⟩ 0x0A_0000_0000_8190 0).toOption = some (.migrate ⟨6, 1, 0, 0, 0, 0, 0, 20, 0, 0⟩) := by decide +kernel

/-- Y slot: the entries' printed words. -/
theorem test_words_y :
    let f (w : Nat) := (decodeY ⟨false, true⟩ w).toOption
    f 0x03_2140_81C1 = some (.ldrem ⟨7, 1, 20, 200, 0⟩) ∧ f 0xE4_B0A0_00C3 = some (.atom ⟨3, 0, 10, 300, 7⟩) ∧
    f 0x04_B0A0_00E1 = some (.plread ⟨3, 0, 10, 300, 0⟩) ∧ f 0x20_0101_0265 = some (.mmst ⟨9, 2, 16, 0, 1⟩) ∧
    f 0x148 = some (.drain 0 5) ∧ f 0x440A = some (.fencep 0x10 2) ∧ f 0x00_0053_108E = some (.bwait 2 4 3 5) ∧
    f 0x00_05C0_0092 = some (.waita 2 0 28 1) ∧ f 0x1255 = some (.cqpop 1 9) ∧ f 0xE3 = some (.fwait 0 3) ∧ f 0x00_0000_11A0 = some (.atcinv 1 6) ∧
    f 0x226 = some (.slogreplay 0 8) ∧ f 0x29_6282_8301 = some (.ldrem ⟨12, 5, 40, 600, 1⟩) := by decide +kernel

/-- The worked bundle of chapter 06, word by word; on a house sequencer its routes are refused first. -/
theorem test_bundle :
    let row : Row := BitVec.ofNat 512 (pack ([0x20801532, 0x3E, 0, 0x0400C320, 0x03263100, 0x01010100, 0x50000001, 0x00640001,
      0x000E0000, 0].map fun w => (32, w)))
    let v : VArgs := ⟨0, false, 100, 0, 0, 7, 0, 0, 0, false, true, false⟩
    (decodeBundle ⟨false, false⟩ row).toOption = some ⟨2, true, 1, 5, 1, 8, 2, 0x3E, 0,
      [(.s0, .addi 3 3 64), (.s1, .cmpi 6 2 3 1024), (.a, .aread 4 2), (.v, .vld v),
       (.v, .vadd { v with unit := 1, v2 := 7, last := true })]⟩ ∧
    (match decodeBundle ⟨true, true⟩ row with | .error t => decide (t = ⟨.reservedBits, .s0, true⟩) | .ok _ => false) = true := by
  decide +kernel

/-! ### A word of every operation, written out from the encoding tables -/

/-- S slot: register and immediate operations, predicates, wall and fields (R126, R127). -/
theorem test_words_all_s :
    ([(0x000234BD01, .add 61 18 35),
      (0x000234BD02, .sub 61 18 35),
      (0x000234BD03, .mul 61 18 35),
      (0x000234BD04, .mulhs 61 18 35),
      (0x000234BD05, .mulhu 61 18 35),
      (0x000234BD06, .divs 61 18 35),
      (0x000234BD07, .divu 61 18 35),
      (0x000234BD08, .rems 61 18 35),
      (0x000234BD09, .remu 61 18 35),
      (0x000234BD0A, .and 61 18 35),
      (0x000234BD0B, .or 61 18 35),
      (0x000234BD0C, .xor 61 18 35),
      (0x000234BD0D, .andn 61 18 35),
      (0x000234BD0E, .shl 61 18 35),
      (0x000234BD0F, .shr 61 18 35),
      (0x000234BD10, .sar 61 18 35),
      (0x000234BD11, .rol 61 18 35),
      (0x000234BD12, .min 61 18 35),
      (0x000234BD13, .max 61 18 35),
      (0x000234BD14, .minu 61 18 35),
      (0x000234BD15, .maxu 61 18 35),
      (0x000004BD16, .clz 61 18),
      (0x000004BD17, .popc 61 18),
      (0x090234BD18, .sel 61 9 18 35),
      (0x00B234BD19, .rotm 61 18 35 44),
      (0xFFFFD4BD20, .addi 61 18 (-3)),
      (0xFFFFD4BD21, .andi 61 18 (-3)),
      (0xFFFFD4BD22, .ori 61 18 (-3)),
      (0xFFFFD4BD23, .xori 61 18 (-3)),
      (0x0003F4BD24, .shli 61 18 63),
      (0x0003F4BD25, .shri 61 18 63),
      (0x0003F4BD26, .sari 61 18 63),
      (0x008001BD27, .movk 61 2 0x8001),
      (0x005E84BD28, .ext 61 18 40 24),
      (0x005E84BD29, .exts 61 18 40 24),
      (0x005E84BD2A, .ins 61 18 40 24),
      (0x0008D29B30, .cmp 11 9 18 35),
      (0xFFFF925B31, .cmpi 11 5 18 (-2)),
      (0x000017EB34, .pand 11 14 7 true false),
      (0x000017EB35, .por 11 14 7 true false),
      (0x000017EB36, .pxor 11 14 7 true false),
      (0x000017EB37, .pandn 11 14 7 true false),
      (0x0000100B38, .pset 11 true),
      (0x005ACB3D40, .ldw 61 300 21 5),
      (0x005ACB3D41, .stw 61 300 21 5),
      (0x000ACB3042, .ldrow 48 300 21 0),
      (0x000ACB3043, .strow 48 300 21 0)] : List (Nat × Instr)).all (fun p => (decodeS ⟨false, true⟩ false p.1).toOption == some p.2) = true := by
  decide +kernel

/-- S slot: CSRs and control (R126-R128). -/
theorem test_words_all_control :
    ([(0x000001FD48, .csrr 61 0x7),
      (0x0000017D49, .csrw 61 0x5),
      (0x0000817D4A, .csrrp 61 0x205),
      (0x000042BD4B, .csrwp 61 0x10A),
      (0x000000A650, .br 6 false 5),
      (0x8000000151, .jmp 0x80000001),
      (0x0000048052, .jmpr 18),
      (0xFFFFFFFD53, .call 61 (-1)),
      (0x0000048054, .ret 18),
      (0x003FFFD255, .loop 18 65536),
      (0x0000004356, .loopq 3 2),
      (0x0140019257, .loopswp 18 7 5),
      (0x0000000058, .lbrk),
      (0x0000800259, .ssend 0x8002),
      (0x000000C85A, .trap 200),
      (0x000000005B, .tret),
      (0x000004BD5C, .rcbld 61 18)] : List (Nat × Instr)).all (fun p => (decodeS ⟨false, true⟩ false p.1).toOption == some p.2) = true := by
  decide +kernel

/-- A slot (R129). -/
theorem test_words_all_a :
    ([(0x00000ACB01, .aread 300 21),
      (0x00000ACB02, .awrite 300 21),
      (0x03D91ACB03, .arw 300 21 401 30),
      (0x00001ACB04, .adiag 300 21 true),
      (0x00001A4B08, .tlw 300 52),
      (0x00001A4B09, .tlr 300 52),
      (0x00001EC54C, .cset 21 8 61),
      (0x00001EC54D, .cget 21 8 61),
      (0xFFFF80454E, .cinc 21 8 (-4)),
      (0x00000F054F, .cstep 21 30),
      (0x01DF43E810, .xsolve 4000 2000 14),
      (0x00ACB3E811, .xload 4000 300 21),
      (0x00ACB3E812, .xsave 4000 300 21)] : List (Nat × Instr)).all (fun p => (decodeA ⟨false, true⟩ p.1).toOption == some p.2) = true := by
  decide +kernel

/-- V slot: lanes, conversions and functions alone in VA (R130, R131). -/
theorem test_words_all_v :
    ([(0x00000000000000E2259FD1000001, [.vadd ⟨0, false, 2001, 1203, 904, 0, 0, 0, 0, true, false, false⟩]),
      (0x00000000000000E2259FD1000002, [.vsub ⟨0, false, 2001, 1203, 904, 0, 0, 0, 0, true, false, false⟩]),
      (0x00000000000000E2259FD1000003, [.vmul ⟨0, false, 2001, 1203, 904, 0, 0, 0, 0, true, false, false⟩]),
      (0x000000000004BAE2259FD1000004, [.vfma ⟨0, false, 2001, 1203, 904, 605, 0, 0, 0, true, false, false⟩]),
      (0x00010000000000E2259FD1000005, [.vmin ⟨0, true, 2001, 1203, 904, 0, 0, 0, 0, true, false, false⟩]),
      (0x00010000000000E2259FD1000006, [.vmax ⟨0, true, 2001, 1203, 904, 0, 0, 0, 0, true, false, false⟩]),
      (0x0000000000000000259FD1000007, [.vabs ⟨0, false, 2001, 1203, 0, 0, 0, 0, 0, true, false, false⟩]),
      (0x0000000000000000259FD1000008, [.vneg ⟨0, false, 2001, 1203, 0, 0, 0, 0, 0, true, false, false⟩]),
      (0x00000000000000E2259FD1000009, [.vand ⟨0, false, 2001, 1203, 904, 0, 0, 0, 0, true, false, false⟩]),
      (0x00000000000000E2259FD100000A, [.vor ⟨0, false, 2001, 1203, 904, 0, 0, 0, 0, true, false, false⟩]),
      (0x00000000000000E2259FD100000B, [.vxor ⟨0, false, 2001, 1203, 904, 0, 0, 0, 0, true, false, false⟩]),
      (0x0000000000000000259FD100000C, [.vnot ⟨0, false, 2001, 1203, 0, 0, 0, 0, 0, true, false, false⟩]),
      (0x00000000000000E2259FD100000D, [.vshl ⟨0, false, 2001, 1203, 904, 0, 0, 0, 0, true, false, false⟩]),
      (0x00000000000000E2259FD100000E, [.vshr ⟨0, false, 2001, 1203, 904, 0, 0, 0, 0, true, false, false⟩]),
      (0x00000000000000E2259FD100000F, [.vsar ⟨0, false, 2001, 1203, 904, 0, 0, 0, 0, true, false, false⟩]),
      (0x00000026800000E2259FD1000010, [.vsel ⟨0, false, 2001, 1203, 904, 0, 77, 0, 0, true, false, true⟩]),
      (0x00010000000000E2259FD1000011, [.vcmpeq ⟨0, true, 2001, 1203, 904, 0, 0, 0, 0, true, false, false⟩]),
      (0x00010000000000E2259FD1000012, [.vcmplt ⟨0, true, 2001, 1203, 904, 0, 0, 0, 0, true, false, false⟩]),
      (0x00010000000000E2259FD1000013, [.vcmple ⟨0, true, 2001, 1203, 904, 0, 0, 0, 0, true, false, false⟩]),
      (0x00010000000000E2259FD1000014, [.vcmpne ⟨0, true, 2001, 1203, 904, 0, 0, 0, 0, true, false, false⟩]),
      (0x0000000000000000259FD1000015, [.vmov ⟨0, false, 2001, 1203, 0, 0, 0, 0, 0, true, false, false⟩]),
      (0x0290000000000000259FD1000020, [.vcvt ⟨0, false, 2001, 1203, 0, 0, 0, 0, 82, true, false, false⟩]),
      (0x0028000000000000259FD1000021, [.vquant ⟨0, false, 2001, 1203, 0, 0, 0, 0, 5, true, false, false⟩]),
      (0x0028000000000000259FD1000022, [.vdeq ⟨0, false, 2001, 1203, 0, 0, 0, 0, 5, true, false, false⟩]),
      (0x0000000000000000259FD1000030, [.vexp2 ⟨0, false, 2001, 1203, 0, 0, 0, 0, 0, true, false, false⟩]),
      (0x0000000000000000259FD1000031, [.vlog2 ⟨0, false, 2001, 1203, 0, 0, 0, 0, 0, true, false, false⟩]),
      (0x0000000000000000259FD1000032, [.vrcp ⟨0, false, 2001, 1203, 0, 0, 0, 0, 0, true, false, false⟩]),
      (0x0000000000000000259FD1000033, [.vrsq ⟨0, false, 2001, 1203, 0, 0, 0, 0, 0, true, false, false⟩]),
      (0x0000000000000000259FD1000034, [.vgelu ⟨0, false, 2001, 1203, 0, 0, 0, 0, 0, true, false, false⟩])] : List (Nat × List Instr)).all (fun p => (decodeV p.1).toOption == some p.2) = true := by
  decide +kernel

/-- V slot: axis operations, moves and packing. -/
theorem test_words_all_v_moves :
    ([(0x00F8000000000000259FD1000040, [.vrotr ⟨0, false, 2001, 1203, 0, 0, 0, 0, 31, true, false, false⟩]),
      (0x8000B00000000000259FD1000041, [.vrotc ⟨0, false, 2001, 1203, 0, 0, 0, 44, 4096, true, false, false⟩]),
      (0x00F8000000000000259FD1000042, [.vbcr ⟨0, false, 2001, 1203, 0, 0, 0, 0, 31, true, false, false⟩]),
      (0x0078000000000000259FD1000043, [.vbcc ⟨0, false, 2001, 1203, 0, 0, 0, 0, 15, true, false, false⟩]),
      (0x0029000000000000259FD1000044, [.vredr ⟨0, true, 2001, 1203, 0, 0, 0, 0, 5, true, false, false⟩]),
      (0x0008000000000000259FD1000045, [.vredc ⟨0, false, 2001, 1203, 0, 0, 0, 0, 1, true, false, false⟩]),
      (0x0010000000000000259FD1000046, [.vscanr ⟨0, false, 2001, 1203, 0, 0, 0, 0, 2, true, false, false⟩]),
      (0x0040000000000000259FD1000047, [.vscanc ⟨0, false, 2001, 1203, 0, 0, 0, 0, 8, true, false, false⟩]),
      (0x00180000000000000007D1000050, [.vld ⟨0, false, 2001, 0, 0, 0, 0, 0, 3, true, true, false⟩]),
      (0x0010000000000000259800000051, [.vst ⟨0, false, 0, 1203, 0, 0, 0, 0, 2, true, false, false⟩]),
      (0x1FF8B00000000000259800000052, [.vmovs ⟨0, false, 0, 1203, 0, 0, 0, 44, 1023, true, false, false⟩]),
      (0x0000B000000000000007D1000053, [.vsplat ⟨0, false, 2001, 0, 0, 0, 0, 44, 0, true, false, false⟩]),
      (0x00000000000000000007D1000054, [.viota ⟨0, false, 2001, 0, 0, 0, 0, 0, 0, true, false, false⟩]),
      (0x0000B000000000000007D1000055, [.vrand ⟨0, false, 2001, 0, 0, 0, 0, 44, 0, true, false, false⟩]),
      (0x0008000000000000259FD1000056, [.vpack ⟨0, false, 2001, 1203, 0, 0, 0, 0, 1, true, false, false⟩]),
      (0x0008000000000000259FD1000057, [.vunpk ⟨0, false, 2001, 1203, 0, 0, 0, 0, 1, true, false, false⟩])] : List (Nat × List Instr)).all (fun p => (decodeV p.1).toOption == some p.2) = true := by
  decide +kernel

/-- M slot (R132). -/
theorem test_words_all_m :
    ([(0x000000003C8001, .mloadb ⟨0, 0, 0, 2, 15, 0, 0, 0⟩),
      (0x01F43C043014C2, .mma ⟨3, 0, 5, 0, 12, 1, 60, 2000⟩),
      (0x00003C03200E43, .mmac ⟨1, 2, 3, 0, 200, 0, 60, 0⟩),
      (0x01F43C043010C4, .mmag ⟨3, 0, 4, 0, 12, 1, 60, 2000⟩),
      (0x00003C003028C5, .mrank ⟨3, 0, 10, 0, 12, 0, 60, 0⟩),
      (0x000000000004C6, .mzero ⟨3, 0, 1, 0, 0, 0, 0, 0⟩),
      (0x01F43CFF200087, .mepi ⟨2, 0, 0, 0, 200, 63, 60, 2000⟩),
      (0x000000FC004007, .mepiLd ⟨0, 0, 0, 1, 0, 63, 0, 0⟩),
      (0x01F43CFF200088, .mdrain ⟨2, 0, 0, 0, 200, 63, 60, 2000⟩),
      (0x00003C00000009, .mshape ⟨0, 0, 0, 0, 0, 0, 60, 0⟩),
      (0x00003C0000000A, .mstat ⟨0, 0, 0, 0, 0, 0, 60, 0⟩),
      (0x00003C0000000B, .mtest ⟨0, 0, 0, 0, 0, 0, 60, 0⟩)] : List (Nat × Instr)).all (fun p => (decodeM ⟨false, true⟩ p.1).toOption == some p.2) = true := by
  decide +kernel

/-- K slot (R133). -/
theorem test_words_all_k :
    ([(0x2921E1, .kload ⟨6, 3, 8, false, false, 41⟩),
      (0x0061E2, .ksort ⟨6, 3, 8, true, false, 0⟩),
      (0x2961E3, .kstep ⟨6, 3, 8, true, false, 41⟩),
      (0x0061E4, .kmerge ⟨6, 3, 8, true, false, 0⟩),
      (0x2961E5, .ktopk ⟨6, 3, 8, true, false, 41⟩),
      (0x29C006, .kstore ⟨0, 0, 0, true, true, 41⟩),
      (0x290007, .kstateRd ⟨0, 0, 0, false, false, 41⟩),
      (0x294007, .kstateWr ⟨0, 0, 0, true, false, 41⟩)] : List (Nat × Instr)).all (fun p => (decodeK ⟨false, true⟩ p.1).toOption == some p.2) = true := by
  decide +kernel

/-- C slot; the M slot holds MMA.BF16 acc1, 16, s12 (R134, R135). -/
theorem test_words_all_c :
    ([(0x141FC7D91ACB01, .ccopy ⟨300, 21, 401, 30, 17, 15, 3, 40, 0, 0⟩),
      (0x141FC7D91ACB02, .ccopyf ⟨300, 21, 401, 30, 17, 15, 3, 40, 0, 0x0C_003C_0842⟩),
      (0x141FC7D91ACB03, .cgather ⟨300, 21, 401, 30, 17, 15, 3, 40, 0, 0⟩),
      (0x141FC7D91ACB04, .cscatter ⟨300, 21, 401, 30, 17, 15, 3, 40, 0, 0⟩),
      (0xF41FC7D91ACB05, .cdispatch ⟨300, 21, 401, 30, 17, 15, 3, 40, 7, 0⟩),
      (0x141FC7D91ACB06, .ccombine ⟨300, 21, 401, 30, 17, 15, 3, 40, 0, 0⟩),
      (0x141FC4000ACB07, .cfill ⟨300, 21, 0, 0, 17, 15, 3, 40, 0, 0⟩),
      (0x001F8000000008, .cwait ⟨0, 0, 0, 0, 0, 15, 3, 0, 0, 0⟩),
      (0x14078000000009, .cstatus ⟨0, 0, 0, 0, 0, 15, 0, 40, 0, 0⟩),
      (0x141F80000ACB10, .migrate ⟨300, 21, 0, 0, 0, 15, 3, 40, 0, 0⟩)] : List (Nat × Instr)).all (fun p => (decodeC ⟨false, true⟩ p.1 0x0C_003C_0842).toOption == some p.2) = true := by
  decide +kernel

/-- Y slot (R136). -/
theorem test_words_all_y :
    ([(0x37728ACB01, .ldrem ⟨300, 21, 40, 1500, 1⟩),
      (0x20028ACB02, .strem ⟨300, 21, 40, 0, 1⟩),
      (0xD7728ACB03, .atom ⟨300, 21, 40, 1500, 6⟩),
      (0xE0028ACB04, .red ⟨300, 21, 40, 0, 7⟩),
      (0x17728ACB05, .scld ⟨300, 21, 40, 1500, 0⟩),
      (0x00028ACB06, .scst ⟨300, 21, 40, 0, 0⟩),
      (0xF773EACB07, .scrmw ⟨300, 21, 62, 1500, 7⟩),
      (0x0000000A48, .drain 0 41),
      (0x0000000A49, .fenced 0 41),
      (0x000004504A, .fencep 0x41 0x22),
      (0x000000A74C, .binit 13 41 0 0),
      (0x000000A74D, .barr 13 41 0 0),
      (0x000329A74E, .bwait 13 41 9 50),
      (0x00028ACB10, .send ⟨300, 21, 40, 0, 0⟩),
      (0x17728ACB11, .recv ⟨300, 21, 40, 1500, 0⟩),
      (0x00268ACB12, .waita 300 21 40 9),
      (0x00000ACB13, .monclr ⟨300, 21, 0, 0, 0⟩),
      (0x0000002A54, .cqpush 2 41),
      (0x0000002A55, .cqpop 2 41),
      (0x00028ACB16, .osend ⟨300, 21, 40, 0, 0⟩),
      (0x0000000A57, .ostat 0 41),
      (0x0000000A60, .atcinv 0 41),
      (0x17728ACB21, .plread ⟨300, 21, 40, 1500, 0⟩),
      (0x00028ACB22, .plwrite ⟨300, 21, 40, 0, 0⟩),
      (0x0000000A63, .fwait 0 41),
      (0x37728ACB24, .mmld ⟨300, 21, 40, 1500, 1⟩),
      (0x20028ACB25, .mmst ⟨300, 21, 40, 0, 1⟩),
      (0x0000000A66, .slogreplay 0 41)] : List (Nat × Instr)).all (fun p => (decodeY ⟨false, true⟩ p.1).toOption == some p.2) = true := by
  decide +kernel

/-- VR of a cascade that takes no random operand and no mask must be zero (R122); MDRAIN's FB is 0 or 1 (R209). -/
theorem test_refused_words :
    (match decodeV (encodeV [.vand ⟨0, true, 8, 1, 2, 0, 3, 0, 0, true, false, false⟩]) with | .error c => decide (c = .reservedBits) | .ok _ => false) = true ∧
    (decodeV (encodeV [.vadd ⟨0, false, 8, 1, 2, 0, 3, 0, 0, true, false, false⟩])).toOption =
      some [.vadd ⟨0, false, 8, 1, 2, 0, 3, 0, 0, true, false, false⟩] ∧
    (match decodeM ⟨false, true⟩ (encode (.mdrain ⟨0, 0, 0, 2, 0, 0, 0, 0⟩)) with | .error c => decide (c = .illegalOp) | .ok _ => false) = true := by
  decide +kernel

/-! ### States the witnesses and tests start from -/

/-- A control block: every die, all banks, and a code range of `n` bundles. -/
def blockOf (n : Nat) : BitVec 2048 := BitVec.ofNat 2048 (0xFFF * 2 ^ 64 + 1024 * 2 ^ 90 + n * 2 ^ 120 + 2 ^ 152 + n * 2 ^ 1232)

/-- What a region of all banks and 16 bundles gives its launches. -/
def terms0 : Terms := { bankn := 1024, coden := 16, hcoden := 16 }

/-- Every die runs a program of 16 bundles in system mode, and no event is to come. -/
def base : State := State.reset.withChip fun c => { c with
  events := [], stage := 6, regions := [(0, blockOf 16)], rloaded := [0],
  dies := List.replicate 12 { present := true, run := .running, sys := true, terms := terms0 } }

/-- The base with the stream of die 0 changed. -/
def onCtx (f : Ctx → Ctx) : State := base.withCtx f
/-- The base with die 0 changed. -/
def onMe (f : Die → Die) : State := base.withMe f
/-- The base as far die 8's sequencer sees it. -/
def house : State := base.withCur fun u => { u with die := 8 }
/-- The base in user mode. -/
def user : State := onMe fun x => { x with sys := false }

/-- A record of one dimension: its space, format, bank count exponent, extent and further bits. -/
def rec1 (space fmt lbc ext more : Nat) : Rec :=
  BitVec.ofNat 768 (space * 2 ^ 64 + 2 ^ 68 + fmt * 2 ^ 72 + lbc * 2 ^ 106 + ext * 2 ^ 128 + 2 ^ 344 + more)
/-- tl1 holds a record and c1 a coordinate. -/
def placed (s : State) (r : Rec) (x : Nat) : State := s.withCtx fun y => { y with tl := [(1, r)], c := [(1, BitVec.ofNat 216 x)] }

/-- What a decoder gives, from what it gives as an option. -/
theorem ok_of_toOption {ε α : Type} {e : Except ε α} {a : α} (h : e.toOption = some a) : e = .ok a := by
  cases e <;> simp_all [Except.toOption]

/-! ### Witnesses: the machine and the scalar slots -/

theorem wit_RoundTrip :
    let y : YArgs := ⟨511, 31, 56, 2047, 1⟩
    ∀ i ∈ [Instr.add 63 63 63, .cstep 31 31, .mshape ⟨0, 0, 0, 0, 0, 0, 63, 0⟩, .kload ⟨7, 7, 10, false, false, 63⟩,
      .ccopy ⟨511, 31, 511, 31, 31, 15, 15, 63, 0, 0⟩, .ldrem y], i.wf = true := by decide +kernel

/-- A load and an addition in one cascade. -/
def cascade0 : List Instr := [.vld ⟨0, false, 100, 0, 0, 7, 0, 0, 0, false, true, false⟩, .vadd ⟨1, false, 100, 0, 7, 7, 0, 0, 0, true, true, false⟩]

theorem wit_VectorWords : cascadeWf cascade0 = true ∧ ∃ w is, w < 2 ^ 112 ∧ decodeV w = .ok is :=
  ⟨by decide +kernel, 0x0E00_0000_6400_0150, cascade0, by decide, ok_of_toOption (by decide +kernel)⟩

/-- A state whose next step runs ADD s3, s1, s2 on die 0. -/
def adds : State := State.reset.withFetchWord 40 0x00_0020_4301
/-- Its bundle. -/
def addBundle : Bundle := ⟨0, false, 0, 0, 0, 0, 0, 0, 0, [(.s0, .add 3 1 2)]⟩

theorem wit_StepRunsBundle :
    let s := adds
    let x := s.chip.die 0
    let s1 := s.after (startCycle 0 false)
    let y := s1.chip.die 0
    (s.chip.turn = 0 ∧ nextEvent s.chip = none ∧ s.chip.cattrip = none ∧ x.steps = true ∧ x.inShadow = false ∧ x.run = .running ∧
      x.entries = [] ∧ duePtimed x.main = none ∧ preempting s.chip 0 = false ∧ y.inShadow = false ∧ y.run = .running ∧
      y.main.nextIssue ≤ y.main.prog ∧ y.main.block = none ∧ y.main.pc < s1.chip.codeSize 0 ∧ y.sbchk = 0 ∧
      isWheel (.add 3 1 2) = false ∧
      (followTrap (s1.withChip fun c => { c with cur := { die := 0 } }) ⟨decide (8 ≤ 0), y.sysMode 0⟩ (s1.bundleAt 0 y.main.pc)).isNone = true) ∧
    decodeBundle ⟨decide (8 ≤ 0), y.sysMode 0⟩ (s1.bundleAt 0 y.main.pc) = .ok addBundle ∧ addBundle.ops = [(.s0, .add 3 1 2)] :=
  ⟨by decide +kernel, ok_of_toOption (by decide +kernel), by decide⟩

/-- The invariant holds of a state with a program in memory, and its step answers a next state. -/
theorem wit_StepKeepsInv : adds.mem.length ≠ 0 ∧ adds.mem.wf = true ∧ (match step adds with | .next _ => true | _ => false) = true := by
  decide +kernel

theorem wit_ImmediateResults : (63 : BitVec 20).toNat < 64 ∧ 64 ≤ (64 : BitVec 20).toNat := by decide

theorem wit_FieldResults : 3 < 4 ∧ 1 ≤ 1 ∧ 63 + 1 ≤ 64 ∧ 1 ≤ 64 ∧ 0 + 64 ≤ 64 := by decide

theorem wit_CompareResults : 9 < 10 := by decide

theorem wit_ScalarFrame : arithDest (.add 3 1 2) = some (false, 3) ∧ arithDest (.add 0 1 2) = some (false, 0) ∧
    arithDest (.cmp 6 2 3 4) = some (true, 6) ∧ Completes (exec (.add 3 1 2) base) ∧ Completes (exec (.add 0 1 2) base) ∧
    Completes (exec (.cmp 6 2 3 4) base) := ⟨rfl, rfl, rfl, ⟨_, rfl⟩, ⟨_, rfl⟩, ⟨_, rfl⟩⟩

theorem wit_ResultsLand : 11 < base.chip.dies.length ∧ 47 < 48 ∧ 15 < 16 ∧ 7 < 8 ∧ 1023 < 1024 ∧ physS 1 63 = 48 ∧ physP 1 15 = 8 ∧ physV 1 2047 = 1024 ∧
    0 < 1 ∧ 0 < 15 := by decide +kernel

theorem wit_LandingOrder :
    let p : Pend := ⟨0, 0, .s 4 1⟩
    let q : Pend := ⟨0, 1, .s 4 2⟩
    let r : Pend := ⟨1, 0, .s 5 3⟩
    let s := onCtx fun y => { y with pend := [p, q, r] }
    let e (id iss : Nat) : Entry := ⟨id, 0, iss, .word 4, true, 9, false, none, 0, {}, [], [], 0⟩
    let with' (l : List Entry) : State := s.withMe fun x => { x with entries := l }
    (s.stream 0 false).pend = [p, q, r] ∧ (s.stream 0 false).prog = 0 ∧ 0 < s.chip.dies.length ∧ 4 ≠ 0 ∧
    (0 ≤ p.due ∧ 0 ≤ q.due ∧ 0 ≤ r.due) ∧ (p.due = 0 ∧ q.due = 0 ∧ r.due ≠ 0) ∧ p.iss < q.iss ∧
    (s.chip.die 0).dueEntries false = [] ∧ ((with' [e 1 0]).chip.die 0).dueEntries false = [e 1 0] ∧ (e 1 0).iss < q.iss ∧
    ((with' [e 1 0, e 2 1]).chip.die 0).dueEntries false = [e 1 0, e 2 1] ∧ (e 1 0).iss ≤ (e 2 1).iss ∧ q.iss ≤ (e 2 1).iss ∧
    (e 1 0).iss < (e 2 1).iss :=
  ⟨rfl, rfl, by decide +kernel, by decide, by decide, by decide, by decide, rfl, rfl, by decide, rfl, by decide, by decide, by decide⟩

/-! ### Witnesses: the bank wall and the CSRs -/

theorem wit_WallPlace :
    let r := rec1 0 1 10 4 0
    (0 < Rec.rank r ∧ ((-1 : Int) < 0 ∧ (Rec.ext r 0 : Int) ≤ 4)) ∧ (0 ≤ (3 : Int) ∧ (3 : Int) < (Rec.ext r 0 : Int)) := by
  decide +kernel

theorem wit_WallOperand :
    let at' (s : State) (r : Rec) (x : Nat) (bank : Nat) (row : Int) : Prop :=
      let t := placed s r x
      ∃ off ∈ offsetOf (t.cx.rtl 1) (coordX (t.cx.rc 1)), (wallPos r off).bank = bank ∧ (wallPos r off).row = row
    Rec.rank (0 : Rec) = 0 ∧ Rec.rank (rec1 1 0 0 4 0) ≠ 0 ∧ Rec.space (rec1 1 0 0 4 0) = 1 ∧ Rec.space (rec1 2 0 0 4 0) = 2 ∧
    offsetOf (rec1 0 0 0 4 0) (coordX 4) = none ∧
    at' base (rec1 0 0 10 1024 1535) 1023 1023 1535 ∧ at' base (rec1 0 0 0 4 1535) 1 0 1536 ∧
    at' house (rec1 0 0 0 4 255) 0 0 255 ∧ at' house (rec1 0 0 0 4 255) 1 0 256 ∧
    at' house (rec1 1 0 0 4 1535) 0 0 1535 ∧ at' house (rec1 1 0 0 4 1535) 1 0 1536 ∧ 8 ≤ house.cd ∧ base.cd < 8 := by decide +kernel

theorem wit_WallLoads :
    let own := placed base (rec1 0 0 0 4 7) 1
    let clash := own.withCtx fun y => { y with resv := [⟨0, 0, 9, false, false⟩] }
    let taken (s : State) (bank row : Nat) : Bool := s.cx.resv.any fun r => r.cyc == s.cx.prog && r.bank == bank && !r.write && r.row != row
    let scratch := placed house (rec1 0 0 0 4 7) 1
    swall own 1 1 = .own 0 8 ∧ ¬ taken own 0 8 ∧ swall clash 1 1 = .own 0 8 ∧ taken clash 0 8 ∧
    swall scratch 1 1 = .scratch 8 ∧ ¬ taken scratch 0 8 ∧ taken (scratch.withCtx fun y => { y with resv := [⟨0, 0, 9, false, false⟩] }) 0 8 ∧
    swall (placed base (rec1 0 0 0 4 0) 4) 1 1 = .fill 0 ∧ swall (placed base (rec1 1 0 0 4 0) 0) 1 1 = .bad .wrongSpace 0 [] ∧
    swall (placed house (rec1 1 0 0 4 0) 4) 1 1 = .farFill 0 ∧ (placed house (rec1 1 0 0 4 0) 4).me.entries.length < 256 := by
  decide +kernel

theorem wit_WallStores :
    let own := placed base (rec1 0 0 0 4 7) 1
    let with' (r : Resv) : State := own.withCtx fun y => { y with resv := [r] }
    let taken (s : State) (bank row : Nat) : Bool := s.cx.resv.any fun r => r.cyc == s.cx.prog + 6 && r.bank == bank && r.write && r.row != row
    let passed (s : State) (bank row : Nat) : Bool := s.cx.resv.any fun r => r.route && r.bank == bank && r.row == row && decide (s.cx.prog + 6 < r.cyc)
    7 < 8 ∧ swall own 1 1 = .own 0 8 ∧ ¬ taken own 0 8 ∧ ¬ passed own 0 8 ∧ taken (with' ⟨6, 0, 9, true, false⟩) 0 8 ∧
    ¬ taken (with' ⟨7, 0, 8, false, true⟩) 0 8 ∧ passed (with' ⟨7, 0, 8, false, true⟩) 0 8 ∧ swall (placed house (rec1 0 0 0 4 7) 1) 1 1 = .scratch 8 ∧
    swall (placed base (rec1 0 0 0 4 0) 4) 1 1 = .fill 0 ∧ swall base 1 1 = .bad .layoutReserved (layoutDetail 1 68 true 0) [] := by
  decide +kernel

theorem wit_WallWritePerforms :
    let w : WPend := ⟨0, 0, 1023, 1535, 1, 0xAB, 0, none⟩
    let s := onCtx fun y => { y with wpend := [w] }
    (s.stream 0 false).wpend = [w] ∧ w.due ≤ (s.stream 0 false).prog := by decide +kernel

theorem wit_CsrMoves : base.sysMode = true ∧ user.sysMode = false ∧ (0x009 : Nat) ≠ 0x10A ∧ packageCsr 0x009 = false ∧
    packageCsr 0x10A = true ∧ packageCsr 0x2FF = true := by decide +kernel

theorem wit_CsrFields : 7 < 8 ∧ 7 < base.chip.dies.length ∧ (0x000 : Nat) = 0x000 ∧ (0x103 : Nat) ∈ [0x103, 0x10D] := by decide +kernel

theorem wit_PackageCsrUpdate : 11 < 12 ∧ 0x200 ≤ 0x2FE ∧ 0x2FE < 0x300 ∧ 0x2FE % 4 ≠ 3 ∧ 11 < base.chip.dies.length ∧
    0x2FF % 4 = 3 ∧ ¬ (0x200 ≤ 0x10C ∧ 0x10C < 0x300) ∧ (fld 0 16 6 < 16) ∧ ¬ (fld (16 * 2 ^ 16) 16 6 < 16 ∨ 37 < fld (16 * 2 ^ 16) 16 6) ∧
    fld (2 ^ 12) 12 4 ≠ 0 ∧ fld 0 12 4 = 0 := by decide +kernel

/-! ### Witnesses: control flow, supersteps and exceptions -/

/-- A USER-TRAP. -/
def trapU : Trap := ⟨.userTrap 1, .s0, false, 0, 0, {}, 0, 0, 0, 'U', 0, false, none, none, none, []⟩
/-- Die 0 stands at bundle `pc` inside loop levels of one pass each, given by their first and last bundle. -/
def looping (pc : Nat) (l : List (Nat × Nat)) : State :=
  onCtx fun y => { y with pc := pc, loops := l.map fun p => ⟨p.1, p.2, .count, 0, 0, 0, 1⟩ }

theorem wit_Transfers :
    let breach (s : State) (x : Int) (exempt : Bool) : Prop := ∃ l ∈ s.cx.loops.head?,
      s.cx.pc = l.last ∨ (exempt = false ∧ (x < l.first ∨ (l.last : Int) < x))
    base.chip.codeSize 0 = 16 ∧ base.cx.rp 0 = true ∧ base.cx.rp 1 ≠ true ∧ ((-1 : Int) < 0 ∧ (16 : Int) ≤ 16) ∧
    (0 ≤ (15 : Int) ∧ (15 : Int) < 16) ∧ ¬ breach base 15 false ∧ breach (looping 3 [(2, 3)]) 2 true ∧
    breach (looping 2 [(2, 3)]) 4 false ∧ ¬ breach (looping 2 [(2, 3)]) 4 true := by decide +kernel

theorem wit_LoopsOpen :
    let deep := looping 1 (List.replicate 6 (0, 9))
    let counted := onCtx fun y => { y with pc := 13, s := [(1, 5)] }
    16 ≤ 0 + 16 ∧ 0 + 15 < base.chip.codeSize 0 ∧ (∃ l ∈ (looping 1 [(0, 2)]).cx.loops.head?, l.last < 1 + 2) ∧
    (∀ l ∈ (looping 1 [(0, 2)]).cx.loops.head?, 1 + 1 ≤ l.last) ∧ (base.cx.rs 1).toNat % 2 ^ 32 = 0 ∧ 0 + 15 + 1 = 16 ∧ 0 + 14 + 1 < 16 ∧
    0 < (counted.cx.rs 1).toNat % 2 ^ 32 ∧ counted.cx.loops.length < 6 ∧ 6 ≤ deep.cx.loops.length ∧ base.me.entries.length < 256 ∧
    256 ≤ (onMe fun x => { x with entries := List.replicate 256 ⟨0, 9, 0, .word 0, false, 0, false, none, 0, {}, [], [], 0⟩ }).me.entries.length ∧
    base.cx.loops = [] ∧ (∃ l ∈ deep.cx.loops.head?, l.last + 1 < 16) ∧ (∃ l ∈ (looping 1 [(0, 15)]).cx.loops.head?, 16 ≤ l.last + 1) := by
  decide +kernel

theorem wit_PositionAfter :
    let jump := base.withCur fun u => { u with jump := some (15, 2) }
    let opens := base.withCur fun u => { u with level := some ⟨1, 3, .swp, 0, 4, 1, 4⟩ }
    let ends := looping 3 [(2, 3), (0, 9)]
    let again := onCtx fun y => { y with pc := 3, loops := [⟨2, 3, .swp, 0, 1, 1, 3⟩] }
    base.cd < base.chip.dies.length ∧ jump.chip.cur.jump = some (15, 2) ∧ opens.chip.cur.jump = none ∧ opens.chip.cur.level.isSome = true ∧
    (ends.cx.loops = ends.cx.loops.take 1 ++ ends.cx.loops.drop 1 ∧ (∀ k ∈ ends.cx.loops.take 1, k.last = ends.cx.pc ∧ k.remain = 0) ∧
      ∀ k ∈ (ends.cx.loops.drop 1).head?, k.last ≠ ends.cx.pc) ∧
    (∃ k ∈ again.cx.loops.head?, k.last = again.cx.pc ∧ 0 < k.remain ∧ k.kind = .swp) ∧
    (base.me.trap = none ∧ base.me.inShadow = false ∧
      ((onMe fun x => { x with trap := some trapU }).me.trap.map (·.cls)) = some 'U') := by decide +kernel

/-- A fault of class I at the bundle. -/
def faultI : Trap := ⟨.illegalOp, .s0, false, 0, 0, {}, 0, 0, 0, 'I', 0, false, none, none, none, []⟩
/-- A launch of region 0 with one party, in its program. -/
def launch0 : Launch :=
  ⟨7, 0, 0, 0, [(0, 0)], [], 0x8000, 0, 0, 0, .running, true, terms0, 0, 0, 0, [], 0, [], 0, 0, 0, [], [], 3, [], 0, 0⟩
/-- The base with that launch on die 0. -/
def launched (f : Launch → Launch) : State :=
  (onMe fun x => { x with launch := some 7 }).withChip fun c => { c with launches := [f launch0] }

theorem wit_TrapTaken :
    let s := launched id
    let sh := onMe fun x => { x with inShadow := true }
    let p (d : Nat) : PRecord := ⟨7, d, 5, []⟩
    (byDie (p 0) (byDie (p 1) []) = [p 0, p 1] ∧ (s.withChip fun c => { c with records := [p 1, p 0] }).chip.records = [p 1, p 0] ∧
      0 < s.chip.dies.length ∧ ∃ l ∈ s.chip.launches.find? fun l => l.id == 7, l.id = 7) ∧
    0 < base.chip.dies.length ∧ 1 ≠ (0 : Nat) ∧ (sh.chip.die 0).inShadow = true ∧ (base.chip.die 0).inShadow = false ∧
    (base.chip.die 0).launch = none ∧ (∃ l ∈ s.chip.launches.find? fun l => some l.id == (s.chip.die 0).launch, l.id = 7) ∧
    s.chip.die 0 ≠ base.chip.die 0 := by decide +kernel

theorem wit_RecordRows :
    let x := (looping 3 [(2, 3), (0, 9)]).me
    let t : Trap := { faultI with site := x.site x.main .s0 }
    15 < 16 ∧ t.site.region < 2 ^ 16 ∧ t.bundle < 2 ^ 32 ∧ t.prog < 2 ^ 64 ∧ t.site.loops.length < 7 ∧
    (∃ k ∈ t.site.loops.reverse[0]?, k.first < 2 ^ 16 ∧ k.last < 2 ^ 16 ∧ k.remain < 2 ^ 32) := by decide +kernel

/-- Die 0 holds on a fault whose record has performed. -/
def faulted (cls : Char) (inShadow : Bool) : State :=
  onMe fun x => { x with trap := some { faultI with cls := cls, ready := true }, inShadow := inShadow }
/-- What runs on die 0 has ISKIP. -/
def skipping (s : State) : State := s.withMe fun x => { x with terms := { x.terms with iskip := true } }

theorem wit_ShadowEntryReturn :
    let s := faulted 'I' false
    0 < 12 ∧ 0 < s.chip.dies.length ∧ (s.chip.die 0).trap = some { faultI with ready := true } ∧ faultI.entry = none ∧ faultI.ready = false ∧
    (s.chip.die 0).trapQ = [] ∧
    (s.chip.die 0).inShadow = false ∧ 'I' ≠ 'F' ∧ 'I' ≠ 'T' ∧ 'U' ≠ 'F' ∧ 'U' ≠ 'T' ∧ s.me.terms.iskip = false ∧ (skipping s).me.terms.iskip = true ∧
    (skipping (faulted 'U' false)).me.terms.iskip = true ∧ (skipping (faulted 'N' false)).me.terms.iskip = true ∧ user.sysMode = false ∧ s.sysMode = true ∧ s.me.inShadow = false ∧
    (faulted 'I' true).me.inShadow = true ∧
    (let u := (faulted 'I' true).withCur fun c => { c with tret := true };
      u.cd = 0 ∧ (u.chip.die 0).inShadow = true ∧ u.chip.cur.tret = true ∧ u.chip.cur.test = false ∧ { addBundle with pbv := true }.pbv = true ∧
        (u.chip.die 0).trapQ = []) := by decide +kernel

theorem wit_TrapOps :
    let l := launched id
    base.cd < base.chip.dies.length ∧ 0 < 255 ∧ 255 < 256 ∧ (faulted 'I' true).me.inShadow = true ∧ l.me.inShadow = false ∧
    (∃ k ∈ l.chip.launches.find? fun k => some k.id == l.me.launch, ∀ p ∈ k.parties ++ k.houses, p.1 = l.cd ∨ p.1 ∈ k.endedDies) := by
  decide +kernel

theorem wit_SuperstepEnds :
    let bar := (launched fun l => { l with atBarrier := [0] }).withMe fun x => { x with run := .barrier }
    let comm := onMe fun x => { x with comm := true, staging := [(1, 2, 3)] }
    let busy := onMe fun x => { x with comm := true, entries := [⟨0, 9, 0, .recv 0 0 1 2, false, 0, false, none, 0, {}, [], [], 0⟩] }
    base.cd < base.chip.dies.length ∧ house.house = true ∧ base.house = false ∧ comm.me.comm = true ∧ base.me.comm = false ∧
    base.me.matrix.busy = false ∧ base.besideArray = false ∧
    (let queued := onMe fun x => { x with matrix := { x.matrix with follow := [⟨some 5, some ⟨.mma, 1, 0, 2, 0, 0, 1, false, 1, [], [], {}, {}⟩, [], true, none, [], 0, 0⟩] } };
      queued.me.matrix.busy = true ∧ queued.besideArray = false) ∧
    (base.withCur fun u => { u with bundle := some { addBundle with ops := [(.m, .mzero ⟨0, 0, 0, 0, 0, 0, 0, 0⟩)] } }).besideArray = true ∧
    (∃ l ∈ (launched id).chip.launches.find? fun l => some l.id == (launched id).me.launch, ∀ p ∈ l.parties, p.1 = 0 ∨ p.1 ∈ l.atBarrier) ∧
    (∃ l ∈ bar.chip.launches.find? fun l => l.id == 7, l.atBarrier ≠ [] ∧ l.atBarrier.Nodup ∧
      ∀ e ∈ l.atBarrier, e < bar.chip.dies.length ∧ (bar.chip.die e).launch = some 7 ∧ (bar.chip.die e).run = .barrier) ∧
    phaseDone busy 0 = false ∧ phaseDone comm 0 = true ∧ (comm.chip.die 0).staging ≠ [] ∧ (comm.chip.die 0).trap = none ∧
    (comm.chip.die 0).inShadow = false := by decide +kernel

/-! ### Results that the manual states -/

/-- Division by zero, the one overflow of DIVS, and CLZ of 0 (R145). -/
theorem test_division : divS 7 0 = BitVec.allOnes 64 ∧ remU 7 0 = 7 ∧ divS (BitVec.ofNat 64 (2 ^ 63)) (-1) = BitVec.ofNat 64 (2 ^ 63) ∧
    remS (BitVec.ofNat 64 (2 ^ 63)) (-1) = 0 ∧ remS (-7) 2 = -1 ∧ divS (-7) 2 = -3 ∧ clz64 0 = 64 ∧ popc64 (-1) = 64 := by decide +kernel

/-- The high words of (-1) times 2: signed -1, unsigned 1 (R145). -/
theorem test_high_products : mulHS (-1) 2 = -1 ∧ mulHU (-1) 2 = 1 := by decide +kernel

/-- ROTM takes bytes 3 to 10 of the pair (R150); MOVK replaces one halfword (R147). -/
theorem test_byte_moves : rotm 0x0807060504030201 0x100F0E0D0C0B0A09 11 = 0x0B0A090807060504 ∧
    movk 0x1111222233334444 3 0xBEEF = 0xBEEF222233334444 := by decide +kernel

/-- The worked quad of R61: (3, -2, 96, 1) is 0x186C with NX, and decodes as (0, 0, 96, 1). -/
theorem test_ox4_quad :
    let c : RndCtx := ⟨.rne, 8, false⟩
    ox4Encode c [.ofInt 3, .ofInt (-2), .ofInt 96, .ofInt 1] [0, 0, 0, 0] = (0x186C, fNX) ∧
    (ox4Decode 0x186C).1.map (fun x => (roundTo 1 c x 0).1) = [0, 0, 0x42C00000, 0x3F800000] := by decide +kernel

/-- The worked block of chapter 08: 20, -3, 0.3, 1 and zeros as MXFP4 have scale 0x81 and codes 6, A, 0, 0, with NX; a block
of zeros has scale 0x7F. -/
theorem test_mx_block :
    let c : RndCtx := ⟨.rne, 8, false⟩
    let xs : List Machine.Num := [.ofInt 20, .ofInt (-3), decodeNum 1 0x3E99999A, .ofInt 1] ++ List.replicate 28 .zero
    let q := mxQuantise 6 c xs (List.replicate 32 0)
    (q.1 = 0x81 ∧ q.2.1.take 4 = [6, 0xA, 0, 0] ∧ q.2.2 = fNX) ∧ (mxQuantise 6 c (List.replicate 32 .zero) (List.replicate 32 0)).1 = 0x7F := by
  decide +kernel

/-- ADD wraps at 2^64 and lands one cycle later (R145, R27); ADD to s0 writes nothing. -/
theorem test_add_wraps :
    let s := onCtx fun y => { y with s := [(1, -1), (2, 2)] }
    let pend (i : Instr) : List Pend := match exec i s with | .next t => t.cx.pend | _ => [⟨9, 9, .s 9 9⟩]
    pend (.add 3 1 2) = [⟨1, 0, .s 3 1⟩] ∧ pend (.add 0 1 2) = [] := by
  exact ⟨rfl, rfl⟩

/-- A landing-buffer word issued in cycle 0 and a result issued in cycle 1 land in one cycle: the later bundle's value stays (R27). -/
theorem test_landing_in_issue_order :
    let s := (onCtx fun y => { y with prog := 2, pend := [⟨2, 1, .s 4 7⟩] }).withMe fun x =>
      { x with entries := [⟨1, 2, 0, .word 4, true, 9, false, none, 0, {}, [], [], 0⟩] }
    SMap.get 0 ((s.after (landCycle 0 false)).chip.die 0).main.s 4 = 7 := by decide +kernel

/-! ### Witnesses: the A slot -/

theorem wit_LayoutOps :
    let good := rec1 1 11 10 4 (7 * 2 ^ 60)
    let bad := rec1 1 11 10 4 (8 * 2 ^ 60)
    let load (r : Rec) : State := onCtx fun y => { y with s := (List.range 12).map fun k => (4 + k, r.extractLsb' (64 * k) 64) }
    ([good, bad].all fun r => (List.range 12).all fun k => r.extractLsb' (64 * k) 64 == (load r).cx.rs (4 + k)) = true ∧
    recCheck good = none ∧ recCheck bad = some 63 ∧ 8 < 9 := by decide +kernel

theorem wit_NamesRows :
    let r := rec1 0 1 1 4 0
    let s := placed base r 3
    let l : List (Nat × Int) := [(0, 0), (1, 0)]
    let lo := s.chip.banklo s.me.rgnId
    let hi := lo + s.chip.bankn s.me.rgnId
    let inWall (l : List (Nat × Int)) : Prop := ∀ p ∈ l, 0 ≤ p.2 ∧ p.2 < 1536 ∧ lo ≤ p.1 ∧ p.1 < hi
    let free (s : State) (cyc : List Nat) (w : Bool) : Prop :=
      ∀ p ∈ l, ∀ t ∈ cyc, (s.cx.resv.any fun q => q.cyc == t && q.bank == p.1 && q.write == w && q.row != p.2.toNat) = false
    let taken (w : Bool) (t : Nat) : State := (s.withCtx fun y => { y with resv := [⟨t, 1, 5, w, false⟩] }).withCur fun u =>
      { u with bundle := some { addBundle with xw := 1, ops := [(.a, .awrite 1 1), (.v, .vst ⟨0, false, 0, 0, 0, 0, 0, 0, 0, true, false, false⟩)] } }
    s.cd < s.chip.dies.length ∧ house.house = true ∧ s.house = false ∧ Rec.rank ((placed base 0 0).cx.rtl 1) = 0 ∧
    Rec.rank r ≠ 0 ∧ Rec.space r = 0 ∧ Rec.space (rec1 1 1 1 4 0) ≠ 0 ∧ offsetOf r (coordX (s.cx.rc 1)) = some 3 ∧
    (∀ g ∈ [false, true], aRows r (s.cx.rc 1) g = .rows (if g then [(0, 0), (1, 1)] else l)) ∧
    inWall l ∧ ¬ inWall [(0, 1535), (1, 1536)] ∧ aRows (rec1 0 1 1 4 1535) 0 true = .rows [(0, 1535), (1, 1536)] ∧
    free s [s.cx.prog] false ∧ free s (nameCycles s) true ∧ ¬ free (taken false 0) [0] false ∧
    ¬ free (taken true 6) (nameCycles (taken true 6)) true ∧ offsetOf r (coordX 4) = none ∧ (1 : Nat) < 2 ^ Rec.lbc r ∧
    (match exec (.aread 1 1) s with | .next v => v.cd == 0 | _ => false) = true := by decide +kernel

theorem wit_RouteStore :
    let r := rec1 0 0 10 1024 0
    let s := placed base r 0
    let busy := onMe fun x => { x with solver := some (1200, 1, 3, 0) }
    let clash := s.withCtx fun y => { y with resv := [⟨22, 22, 5, false, false⟩, ⟨28, 22, 5, true, false⟩] }
    let place (r : Rec) (k : Nat) : WallPos := rowPos r ((0 : Int) / (512 / fmtWidth (Rec.fmt r) : Nat) + (k : Int)) 0
    let taken (s : State) (t : Nat) (p : WallPos) (w : Bool) : Bool := s.cx.resv.any fun q => q.cyc == t && q.bank == p.bank && q.write == w && q.row != p.row.toNat
    let passes (s : State) (t : Nat) (p : WallPos) : Bool := s.cx.resv.any fun q => q.route && q.bank == p.bank && q.row == p.row.toNat && decide (t < q.cyc)
    let behind := s.withCtx fun y => { y with resv := [⟨29, 22, 0, false, true⟩] }
    s.cd < s.chip.dies.length ∧ 0 < 12 ∧ house.house = true ∧ s.house = false ∧ busy.me.solver ≠ none ∧ s.me.solver = none ∧
    s.me.inShadow = false ∧ Rec.rank (0 : Rec) = 0 ∧ Rec.rank r ≠ 0 ∧ Rec.space r = 0 ∧ Rec.space (rec1 1 0 10 4 0) ≠ 0 ∧
    offsetOf r (coordX 1024) = none ∧ offsetOf r (coordX (s.cx.rc 1)) = some 0 ∧
    (∀ k : Nat, k < 23 → let p := place r k
      0 ≤ p.row ∧ p.row < 1536 ∧ p.bank < 1024 ∧ ¬ taken s (0 + k) p false ∧ ¬ taken s (6 + k) p true ∧ ¬ passes s (6 + k) p) ∧
    taken clash 22 (place r 22) false ∧ taken clash 28 (place r 22) true ∧ passes behind 28 (place r 22) ∧
    (1536 : Int) ≤ (place (rec1 0 0 0 1024 1520) 22).row ∧
    (busy.chip.die 0).solver = some (1200, 1, 3, 0) ∧ 3 < 16 ∧ fld 0 0 16 < 1024 ∧ fld 0 32 16 = fld 0 0 16 := by decide +kernel

/-- XSOLVE_COMPLETE with every destination 0xFFFF meets the rule; with two destinations 0 it does not. -/
theorem wit_RouteStore_solved :
    let v : Vec := BitVec.allOnes 32768
    let free : List Nat := List.replicate 1024 0xFFFF
    (free.length = 1024 ∧ (∀ x ∈ free, x = 0xFFFF ∨ x < 1024) ∧ (free.filter (· ≠ 0xFFFF)).Nodup) ∧
    (0 < 23 ∧ (0 : Route).toNat < 2 ^ (512 * 0)) ∧
    (∀ i, i < 1024 → fld v.toNat (32 * i) 16 = 0xFFFF) ∧ fld (0 : Vec).toNat 0 16 = fld (0 : Vec).toNat 32 16 := by decide +kernel

/-! ### Witnesses: the vector slot -/

/-- A V operation in VA that is the last of its cascade. -/
def alone (ty : Bool) (x : BitVec 13) : VArgs := ⟨0, ty, 8, 1, 2, 0, 0, 3, x, true, false, false⟩

theorem wit_LaneIntegers : (alone false 0).ty = false ∧ (alone true 0).ty = true := by decide
theorem wit_LaneFloats : (alone false 0).ty = false := by decide
theorem wit_Conversions : (alone false 4).x.toNat % 16 ≠ 9 ∧ (alone false 9).x.toNat % 16 = 9 := by decide
/-- Cells of FP32: 3 is exact, 2^200 lies above the largest value, and 2^-140 is subnormal; a cell of an integer format. -/
theorem wit_Conversions_rounding :
    let cell (x : Rat) (k : Nat) (q : Int) : Prop := (k : Rat) * 2 ^ q ≤ x ∧ x < (k + 1 : Rat) * 2 ^ q ∧ k < 2 ^ 24 ∧ (x - k * 2 ^ q) / 2 ^ q = 0
    (cell 3 (3 * 2 ^ 22) (-22) ∧ (-126 - 23 : Int) ≤ -22 ∧ 2 ^ 23 ≤ 3 * 2 ^ 22 ∧ (3 : Rat) ≤ (2 ^ 24 - 1) * 2 ^ (104 : Int)) ∧
    (cell (2 ^ (200 : Int)) (2 ^ 23) 177 ∧ ((2 : Rat) ^ 24 - 1) * 2 ^ (104 : Int) < 2 ^ (200 : Int)) ∧
    (cell (2 ^ (-140 : Int)) (2 ^ 9) (-149) ∧ (0 : Rat) < 2 ^ (-140 : Int) ∧ (2 : Rat) ^ (-140 : Int) < 2 ^ (-126 : Int)) ∧
    ((127 : Rat) ≤ 127 ∧ (127 : Rat) < 127 + 1 ∧ ¬ ((1 : Rat) / 2 < 127 - 127) ∧ (2 : Int) ^ 7 - 1 < 128 ∧ -129 < -(2 : Int) ^ 7) := by decide +kernel

theorem wit_AxisOps : (alone true 5).x.toNat % 8 < 6 ∧ (alone true 5).ty = true ∧ (alone false 2).x.toNat % 8 < 3 := by decide
theorem wit_VectorMoves :
    let s := base.withCur fun u => { u with bundle := some addBundle }
    (alone false 0).x.toNat % 4 + 1 = 1 ∧ 1 < (alone false 3).x.toNat % 4 + 1 ∧ s.chip.cur.bundle = some addBundle ∧
    (alone false 0x38).x.toNat / 8 % 8 * 4 < 32 ∧ (alone false 8).x.toNat / 8 % 8 * 16 < 32 := by decide +kernel

/-! ### Witnesses: the matrix slot -/

/-- Die 0 with a matrix state. -/
def array (f : Matrix → Matrix) : State := onMe fun x => { x with matrix := f x.matrix }
/-- A follow-on command of set 1. -/
def follow1 (started : Option Nat) : Follow :=
  ⟨some 5, some ⟨.mma, 1, 0, 2, 0, 0, 1, false, 1, [], [], {}, {}⟩, [], true, started, [], 0, 0⟩
/-- The fields of an M command. -/
def mOf (acc asrc fa fb len epb ss vs : Nat) : MArgs := ⟨acc, asrc, fa, fb, len, epb, ss, vs⟩

theorem wit_MatrixSetup :
    let busy := array fun m => { m with follow := [follow1 none] }
    let lost := array fun m => { m with fenced := 1 }
    base.cd < base.chip.dies.length ∧ busy.me.matrix.busy = true ∧ lost.me.matrix.busy = false ∧
    lost.me.matrix.avail lost.me.matrix.tile.km = false ∧ base.me.matrix.busy = false ∧ base.me.matrix.avail base.me.matrix.tile.km = true ∧
    (mOf 0 0 0 2 15 0 0 0).fb ≠ 11 ∧ (mOf 0 0 0 2 15 0 0 0).len < 16 ∧ (mOf 0 0 0 11 16 0 0 0).fb = 11 ∧
    (base.cx.rs 1).toNat % 16 = 0 ∧ ((onCtx fun y => { y with s := [(1, 1)] }).cx.rs 1).toNat % 16 ≠ 0 ∧
    lost.me.matrix.avail 1 = false ∧ base.me.matrix.avail 1 = true ∧ epValid 0 = true ∧ epValid 11 = false := by decide +kernel

theorem wit_MatrixProducts :
    let busy := array fun m => { m with follow := [follow1 none] }
    let lost := array fun m => { m with fenced := 1 }
    let m := array fun m => { m with tile := { m.tile with tfmt := 2 } }
    base.cd < base.chip.dies.length ∧ busy.me.matrix.busy = true ∧ lost.me.matrix.avail lost.me.matrix.tile.km = false ∧
    m.me.matrix.busy = false ∧ m.me.matrix.avail m.me.matrix.tile.km = true ∧
    m.refuses .mma (mOf 1 0 2 0 15 0 12 0) = none ∧ m.refuses .mmag (mOf 1 0 2 0 15 0 12 0) = none ∧
    m.refuses .mmac (mOf 1 2 2 0 255 0 12 0) = none ∧ (array fun m => { m with modes := 2 }).refuses .mrank (mOf 1 0 1 0 15 0 12 0) = none ∧
    (let w := (array fun m => { m with tile := { m.tile with tfmt := 2 } }).withCtx fun y => { y with v := [(4, BitVec.ofNat 32768 (16 * 2 ^ 32))] };
      let off (k : Nat) : Int := (lane (w.cx.rv 4) k).toInt
      off 0 ≤ ((0 : Nat) : Int) ∧ ((0 : Nat) : Int) < off 1 ∧ ¬ (off 0 ≤ ((16 : Nat) : Int) ∧ ((16 : Nat) : Int) < off 1)) ∧
    base.refuses .mma (mOf 1 0 2 0 15 0 12 0) = some .tileFormat ∧ m.refuses .mrank (mOf 1 0 1 0 15 0 12 0) = some .accMode := by
  decide +kernel

/-- A captured MMA.INT8 and a captured MRANK. -/
def int8Cap : MCap := ⟨.mma, 1, 0, 7, 0, 0, 1, false, 256, [], [], {}, { tfmt := 7 }⟩

theorem wit_ProductSums : int8Cap.op = .mma ∧ int8Cap.fa = 7 ∧ int8Cap.tile.tfmt = 7 ∧ int8Cap.sca = false ∧ int8Cap.e ≤ 256 ∧ 255 < 256 := by
  decide

theorem wit_AccumulatorLandings : 11 < base.chip.dies.length ∧ 255 < 256 := by decide +kernel

theorem wit_Epilogues :
    let s := base.withCur fun u => { u with bundle := some addBundle }
    let busy := array fun m => { m with follow := [follow1 none] }
    s.cd < s.chip.dies.length ∧ busy.me.matrix.setBusy 1 = true ∧ s.me.matrix.setBusy 1 = false ∧ ¬ (0 + 256 ≤ 256 ∧ 256 * epRows 0 ≤ 256) ∧
    0 + 16 ≤ 256 ∧ 16 * epRows 0 ≤ 256 ∧ s.chip.cur.bundle = some addBundle ∧ SMap.get 0 s.me.matrix.ep 5 = 0 := by decide +kernel

theorem wit_MatrixTests :
    let busy := array fun m => { m with follow := [follow1 none] }
    let runs := array fun m => { m with follow := [follow1 (some 0)] }
    let later : State := runs.withChip fun c => { c with now := 262 }
    let isOver (s : State) (f : Follow) : Bool := match f.started with
      | some t => t + (match f.cap with | some c => c.n - 1 + 262 | none => 24) ≤ s.chip.now
      | none => false
    0 < 12 ∧ 0 < base.chip.dies.length ∧ busy.me.matrix.busy = true ∧ base.me.matrix.busy = false ∧
    (array fun m => { m with fenced := 1 }).me.matrix.avail 15 = false ∧ base.me.matrix.avail base.me.matrix.tile.km = true ∧
    followReady (base.chip.die 0) 0 = false ∧ followReady (busy.chip.die 0) 0 = true ∧
    (∀ f ∈ (runs.chip.die 0).matrix.follow, isOver runs f = false) ∧ (∀ f ∈ (later.chip.die 0).matrix.follow, isOver later f = true) ∧
    (later.chip.die 0).matrix.follow = [] ++ follow1 (some 0) :: [] ∧
    (let test : Follow := ⟨none, none, [], true, none, [], 0, 0⟩;
      [test].any (·.cap.isSome) = false ∧ ([test].filter fun g => g.cap.isNone && g.started.isNone).length = 1 ∧
        [follow1 none, test].any (·.cap.isSome) = true) := by decide +kernel

/-- Whatever the free value finds: with every sub-array fenced no failing one is new, and with none fenced each is. -/
theorem wit_MatrixTests_outcomes (f : BitVec 17) :
    let all := (array fun m => { m with fenced := BitVec.allOnes 17 }).chip.die 0
    (f &&& ~~~all.matrix.fenced = 0) ∧ (f ≠ 0 → f &&& ~~~(base.chip.die 0).matrix.fenced ≠ 0) := by
  intro all
  have h1 : ~~~all.matrix.fenced = 0 := by decide +kernel
  have h2 : ~~~(base.chip.die 0).matrix.fenced = BitVec.allOnes 17 := by decide +kernel
  rw [h1, h2]
  exact ⟨by simp, fun h => by rw [BitVec.and_allOnes]; exact h⟩

/-! ### Witnesses: the sort array -/

/-- Die 0 with KSTATE and its view at a value, and the tile free from a program cycle on. -/
def sorting (k : KState) (free : Nat) : State := onMe fun x => { x with mace := { x.mace with kstate := kPack k, kview := kPack k, free := free } }
/-- An idle 2 by 4 tile of INT32 keys. -/
def idleK : KState := ⟨false, 2, false, 10, 0, 1, 0, 0, 0⟩
/-- The fields that name that shape. -/
def kArg (ss : Nat) : KArgs := ⟨0, 1, 10, false, false, ss⟩

theorem wit_SortOps :
    let m (s : State) := s.me.mace
    let k (s : State) := kUnpack s.me.mace.kview
    let idle := (sorting idleK 1).withCtx fun y => { y with s := [(1, 4), (2, 5)] }
    let going := sorting { idleK with run := true, step := 1 } 1
    idle.cd < idle.chip.dies.length ∧ idle.cx.prog + 1 < (m (sorting idleK 2)).free ∧ (m idle).free ≤ idle.cx.prog + 1 ∧
    (1 ≤ (idle.cx.rs 1).toNat % 512 ∧ (idle.cx.rs 1).toNat % 512 ≤ 2 ^ 2) ∧ ¬ (1 ≤ (idle.cx.rs 2).toNat % 512 ∧ (idle.cx.rs 2).toNat % 512 ≤ 2 ^ 2) ∧
    k idle = idleK ∧ ((k idle).lr = (kArg 1).lr ∧ (k idle).lc = (kArg 1).lc ∧ (k idle).kf = (kArg 1).kf) ∧ (k base).kf ≠ (kArg 1).kf ∧
    (k going).run = true ∧ (k going).dir = (kArg 1).dir ∧ (k going).dir ≠ true ∧ (k going).op ≠ 4 ∧ (k going).op = 2 ∧
    (k (sorting { idleK with run := true, op := 4 } 1)).op = 4 ∧ (k (sorting { idleK with run := true, op := 5 } 1)).op = 5 := by
  decide +kernel

theorem wit_SortSteps :
    let m (k : KState) : Mace := { cells := [(0, 9), (1, 3), (256, 5), (257, 7)], kstate := kPack k }
    let rows : KState := { idleK with run := true, lc := 0, step := 1 }
    let cols : KState := { idleK with run := true, lc := 0, phase := 1 }
    let ph (k : KState) := ((kUnpack (m k).kstate).phases.getD (kUnpack (m k).kstate).phase (true, 0))
    ((m rows).cells.map (·.1)).Pairwise (· < ·) ∧ (∀ p ∈ (m rows).cells, p.1 < 65536) ∧
    (ph rows).1 = true ∧ (ph cols).1 = false ∧ rows.step % 2 = 1 ∧ rows.step < (ph rows).2 ∧ rows.phase < rows.phases.length ∧
    1 < rows.nr ∧ 0 + 1 < rows.nc ∧ kUnpack (m rows).kstate = rows := by decide +kernel

theorem wit_SortMoves :
    let s := (sorting idleK 1).withCtx fun y => { y with s := [(1, 8), (2, 4)] }
    let w (n : Nat) := (s.cx.rs n).toNat % 65536
    s.cd < s.chip.dies.length ∧ s.cx.prog + 7 < (sorting idleK 8).me.mace.free ∧ s.me.mace.free ≤ s.cx.prog + 7 ∧
    ¬ (w 2 % 8 = 0 ∧ w 2 < 8) ∧ (w 0 % 8 = 0 ∧ w 0 < 8 ∧ w 0 = 0) ∧ (w 1 % 8 = 0 ∧ w 1 < 16 ∧ w 1 ≠ 0) ∧
    s.cx.prog + 1 < (sorting idleK 2).me.mace.free ∧ s.me.mace.free ≤ s.cx.prog + 1 ∧ (kUnpack s.me.mace.kview).topk = 0 ∧
    (kUnpack (sorting { idleK with topk := 3 } 1).me.mace.kview).topk ≠ 0 ∧ kstateOk (kPack idleK) = true ∧ kstateOk (kPack { idleK with kf := 9 }) = false ∧
    7 < 8 ∧ ([(768, 0), (769, 1)].map (·.1) : List Nat).Nodup := by decide +kernel

/-! ### Witnesses: the copy engine -/

/-- The fields of a C command on tl1, tl2 and the coordinates c1. -/
def cOf (p1 p2 ss aux : Nat) : CArgs := ⟨1, 1, 2, 1, 1, p1, p2, ss, aux, 0⟩
/-- The base with records tl1 and tl2 and words s1 and s2. -/
def copying (r1 r2 : Rec) (x : Nat) (w1 w2 : Word) : State :=
  onCtx fun y => { y with tl := [(1, r1), (2, r2)], c := [(1, BitVec.ofNat 216 x)], s := [(1, w1), (2, w2)] }
/-- A plain record of four FP32 elements. -/
def plain4 : Rec := rec1 0 1 0 4 0

theorem wit_CopyIssue :
    let s := copying plain4 plain4 4 0 0
    let late := s.withMe fun x => { x with entries := List.replicate 256 ⟨0, 9, 0, .word 0, false, 0, false, none, 0, {}, [], [], 0⟩ }
    let names (w : Word) (tla tlb : Nat) : List Nat := -- a dispatch
      let xt := w.toNat / 2 ^ 16 % 512
      tlb :: xt :: (xt + 1) :: [tla]
    s.cd < s.chip.dies.length ∧ NodeOp.gather ∉ [NodeOp.copy, .fill, .migrate] ∧ 8 ≤ house.cd ∧ user.sysMode = false ∧ s.sysMode = true ∧
    s.cd < 8 ∧ (names (BitVec.ofNat 64 (511 * 2 ^ 16)) 1 2 = [2, 511] ++ 512 :: [1]) ∧ 511 < 512 ∧ Rec.rank (s.cx.rtl 3) = 0 ∧
    (∀ n ∈ [1, 2], n ≤ 511 ∧ Rec.rank (s.cx.rtl n) ≠ 0) ∧ Rec.fmt (s.cx.rtl 1) = Rec.fmt (s.cx.rtl 2) ∧
    (∀ d, d < 1 → 0 ≤ coordX (s.cx.rc 1) d) ∧ (s.cx.rs 1).toNat % 65536 = 0 ∧
    Rec.fmt ((copying plain4 (rec1 0 11 0 4 0) 4 0 0).cx.rtl 2) = 11 ∧ coordX ((copying plain4 plain4 0xFFFFFF 0 0).cx.rc 1) 0 < 0 ∧
    ((copying plain4 plain4 4 5 0).cx.rs 1).toNat % 65536 ≠ 0 ∧ s.me.matrix.avail s.me.matrix.tile.km = true ∧
    (s.withMe fun x => { x with matrix := { x.matrix with fenced := 1 } }).me.matrix.avail 0 = false ∧ s.me.entries.length < 256 ∧ ¬ late.me.entries.length < 256 := by
  decide +kernel

/-- A node of four elements from tl2 to tl1, where it stands. -/
def node0 (op : NodeOp) (st : NodeState) (n : Nat) : Node :=
  ⟨5, op, cOf 0 0 1 0, st, [], 0, 0, 0, {}, false, [plain4, plain4], [0, 0, BitVec.ofNat 216 n, 0], {}, 0, 0, none, none, [], [], 0, 0, 0,
    [], [], [], none, 0, 0, 0, 0, [], none⟩
/-- Die 0 with nodes. -/
def engine (l : List Node) : State := onMe fun x => { x with copy := { nodes := l, next := 6, hist := [some 5, none] } }
/-- An access of die 0. -/
def accOf (k : AccKind) (t : Target) (st : Stage) : Acc := { blankAcc base.chip 0 k t with stage := st, sinc := 0 }
/-- The package with one access in its table. -/
def with1 (s : State) (a : Acc) : State := s.withChip fun c => { c with accs := [a] }

theorem wit_CopyNodes_launch :
    let n := node0 .copy .waiting 4
    let s := engine [n]
    let back (p : Nat) : Option Nat := if p = 0 then none else (s.me.copy.hist[p - 1]?).join
    (back 1 == some 5 && back 2 == none && (s.me.copy.nodes.find? fun m => m.id == 5).isSome) = true ∧
    0 < s.chip.dies.length ∧ ((base.chip.die 0).node 5).isNone = true ∧ n.id = 5 ∧
    n.state = .waiting ∧ (node0 .copy .launched 4).state = .launched ∧ n.op ≠ .migrate ∧
    ((List.range (node0 .copy .waiting 0).rank).any fun k => (coordX ((node0 .copy .waiting 0).coord 2) k).toNat == 0) = true ∧
    (n.rank == 1 && (coordX (n.coord 2) 0).toNat == 4) = true ∧
    (n.stage == 0 && n.fault.isNone && n.reads.isEmpty && n.recs.length == 2) = true ∧
    (n.recs.all fun r => Rec.rank r == 1 && Rec.space r == 0) = true ∧
    (n.named s.chip 0).all (fun l => !l.isBad) = true ∧
    (let bad := { n with recs := [rec1 0 0 0 4 1535, plain4] };
      (bad.named s.chip 0).any (fun l => l.isBad) = true ∧ bad.fault.isNone = true ∧ bad.state = .waiting ∧ bad.op ≠ .migrate) ∧
    (let m := node0 .migrate .waiting 4;
      m.op = .migrate ∧ m.state = .waiting ∧ (offsetOf (m.rec' 0) (coordX (m.coord 0))).isSome = true ∧
      ({ m with coords := [BitVec.ofNat 216 4] }.state = .waiting ∧
        (offsetOf (m.rec' 0) (coordX (BitVec.ofNat 216 4))).isNone = true)) := by decide +kernel

/-- The node that wit_CopyNodes_launch speaks of is the one the die finds. -/
theorem wit_CopyNodes_found : ((engine [node0 .copy .waiting 4]).chip.die 0).node 5 = some (node0 .copy .waiting 4) := rfl

theorem wit_CopyNodes_retire :
    let ended := engine [{ node0 .copy .waiting 4 with state := .launched, fault := some .wallRange }]
    let follows := (engine [node0 .copyf .launched 4]).withMe fun x => { x with matrix := { x.matrix with follow := [{ follow1 none with ready := false }] } }
    let disp := engine [{ node0 .dispatch .launched 4 with counts := [3, 4] }]
    let row := with1 (engine [{ node0 .copy .waiting 4 with state := .launched, stage := 2, reads := [⟨.wall 0 0 0, 1, 0, false, none⟩] }])
      { accOf .nodeRead (.wall 0 0 0) .performed with node := some (5, 0) }
    let at5 (s : State) (f : Node → Bool) : Bool := match (s.chip.die 0).node 5 with | some m => f m | none => false
    at5 ended (fun m => m.fault == some .wallRange && m.op != .dispatch) = true ∧ at5 follows (fun m => m.fault.isNone) = true ∧
    ((follows.chip.die 0).matrix.follow.any fun f => f.node == some 5) = true ∧ at5 disp (fun m => m.op == .dispatch && m.fault.isNone) = true ∧
    ((disp.chip.die 0).matrix.follow.all fun f => f.node != some 5) = true ∧ ((disp.chip.die 0).main.pend ++ (disp.chip.die 0).shadow.pend).isEmpty = true ∧
    (disp.chip.die 0).copy.waiting.isEmpty = true ∧ ((engine []).chip.acc 9).isNone = true ∧
    (row.chip.accs.all fun a => a.id == 0 && a.node == some (5, 0) && a.fn != 1 && a.fn != 2 && decide (a.die < row.chip.dies.length)) = true ∧
    at5 row (fun m => m.stage == 2 && m.reads[0]?.isSome) = true := by decide +kernel

/-! ### Witnesses: requests of the Y slot -/

/-- The fields of a Y command on tl1 and c1. -/
def yOf (sx arr fn : Nat) : YArgs := ⟨1, 1, sx, arr, fn⟩
/-- A virtual record: BASE is the row 0x1000000 of package 0, or further on. -/
def virt (more : Nat) : Rec := rec1 2 0 0 4 (0x1000000 + more)

/-- A place of a request is this one. -/
def placeIs (p q : YPlace) : Bool := match p, q with
  | .beyond a, .beyond b => a == b
  | .fill a b, .fill c d => a == c && b == d
  | .at t w, .at u v => t == u && w == v
  | .bad c v k, .bad d w l => c == d && v == w && k == l
  | _, _ => false

theorem wit_RemoteLoads :
    let wall := rec1 0 1 0 4 1535
    let full := base.withMe fun x => { x with entries := List.replicate 256 ⟨0, 9, 0, .word 0, false, 0, false, none, 0, {}, [], [], 0⟩ }
    base.cd < base.chip.dies.length ∧ Rec.rank (0 : Rec) = 0 ∧ Rec.rank (virt 0) ≠ 0 ∧ Rec.space (virt 0) = 2 ∧ Rec.space wall ≠ 2 ∧
    offsetOf (virt 0) (coordX 4) = none ∧ offsetOf (virt 0) (coordX 3) = some 3 ∧
    placeIs (yplace (placed base wall 0) 1 1) (.at (.wall 0 0 1535) 0) = true ∧ placeIs (yplace (placed base (rec1 0 0 0 4 1535) 1) 1 1) (.bad .wallRange 0 [0]) = true ∧
    placeIs (yplace (placed house (rec1 0 0 0 4 255) 0) 1 1) (.at (.scratch 8 255) 0) = true ∧ placeIs (yplace (placed house (rec1 0 0 0 4 255) 1) 1 1) (.bad .wallRange 0 [0]) = true ∧
    placeIs (yplace (placed base wall 4) 1 1) (.beyond 0) = true ∧ placeIs (yplace (placed base (virt 0) 4) 1 1) (.fill 0x1000000 0) = true ∧
    (yOf 8 1 0).arr ≠ 0 ∧ base.cd < 8 ∧ 8 ≤ house.cd ∧ user.sysMode = false ∧ base.sysMode = true ∧ 256 ≤ full.me.entries.length ∧
    ¬ 256 ≤ base.me.entries.length := by decide +kernel

theorem wit_RemoteStores :
    let leaf : Word := BitVec.ofNat 64 (2 ^ 8)
    let e : TcEntry := ⟨0x1000000 / 2 ^ 16, 16, 2 ^ 56, true, true, []⟩
    let s := ((placed base (virt 0) 0).withMe fun x => { x with tcFabric := [e] }).withChip fun c => { c with npkg := 2 }
    let pa := e.pa + Rec.base (s.cx.rtl 1) % 2 ^ e.bits
    s.cd < s.chip.dies.length ∧ s.cd < 8 ∧ (yOf 8 0 0).arr = 0 ∧ s.sysMode = true ∧ Rec.rank (s.cx.rtl 1) ≠ 0 ∧ Rec.space (s.cx.rtl 1) = 2 ∧
    (fld leaf.toNat 6 2 = 0 ∧ leaf.toNat.testBit 41 = false ∧ leaf.toNat / 2 ^ 46 = 0 ∧ leaf.toNat / 2 ^ 36 % 16 ≤ 11 ∧ leaf.toNat / 2 ^ 40 % 2 ≠ 1 ∧
      leaf.toNat / 2 ^ 36 % 16 ≠ 6 ∧ leaf.toNat % 4 = 0 ∧ leaf.toNat / 4 % 16 < 8 ∧ fld leaf.toNat 8 28 ≠ 0) ∧
    fld (0 : Word).toNat 8 28 = 0 ∧ Rec.rank ((placed base 0 0).cx.rtl 1) = 0 ∧ offsetOf (virt 0) (coordX 4) = none ∧
    Rec.space (plain4) ≠ 2 ∧ offsetOf (s.cx.rtl 1) (coordX (s.cx.rc 1)) = some 0 ∧
    tcFind s.me.tcFabric (Rec.base (s.cx.rtl 1)) = some e ∧ e.rd = true ∧ e.wr = true ∧ 6 ≤ e.bits ∧
    s.me.inShadow = false ∧
    (let full := s.withChip fun c => { c with oqueue := [(1, List.replicate 256 ⟨0, 0, none, 0, 0, 0, [], 0, false⟩)] };
      256 ≤ (SMap.get [] full.chip.oqueue (pa / 2 ^ 56)).length ∧ ¬ 256 ≤ (SMap.get [] s.chip.oqueue (pa / 2 ^ 56)).length) ∧
    pa / 2 ^ 56 ≠ s.chip.pkgId ∧ pa / 2 ^ 56 < s.chip.npkg ∧ (e.pa + Rec.base (s.cx.rtl 1) / 64 * 64 % 2 ^ e.bits) / 2 ^ 56 = pa / 2 ^ 56 := by
  decide +kernel

/-- Die 0 in its communication phase with die 1 as the other party, and tl1. -/
def exchanging (r : Rec) (x : Nat) : State :=
  (((placed base r x).withCtx fun y => { y with s := [(1, 1 + 256 * 255)] }).withMe fun z => { z with comm := true, launch := some 7 }).withChip fun c =>
    { c with launches := [{ launch0 with parties := [(0, 0), (1, 0)] }] }
/-- An arrived SEND of die 1 for die 0. -/
def sendAcc : Acc := { accOf .send .beyond .forwarded with die := 1, home := some 0, launch := some 7, a := 255, b := 0, data := 9 }

theorem wit_FencesTransfers :
    let s := exchanging (rec1 0 1 0 4 7) 0
    let sent := s.withMe fun x => { x with sent := [(1, 255)], recvd := [(1, 255)] }
    let many := s.withMe fun x => { x with sent := (List.range 32).map fun k => (1, k) }
    let peer := (s.cx.rs 1).toNat % 16
    let tag := (s.cx.rs 1).toNat / 256 % 256
    let recv := s.withMe fun x => { x with entries := [⟨3, 9, 0, .recv 0 0 1 255, false, 0, false, none, 0, {}, [], [], 0⟩] }
    let w (n : Nat) : State := onCtx fun y => { y with s := [(1, BitVec.ofNat 64 n)] }
    (base.me.dev < 8 ∧ ((w 0xF000).cx.rs 1).toNat / 2 ^ 12 % 16 ≠ 0 ∧ ((w 0xFFF).cx.rs 1).toNat / 2 ^ 12 % 16 = 0 ∧ 0x7F ≠ 0) ∧
    8 ≤ house.cd ∧ s.cd < 8 ∧ base.me.comm = false ∧ s.me.comm = true ∧ Rec.space (s.cx.rtl 1) = 0 ∧ Rec.space (virt 0) ≠ 0 ∧
    (∃ l ∈ s.chip.launchOf s.cd, ∃ p ∈ l.parties, p.1 = peer) ∧ s.chip.launchOf 2 = none ∧ (peer, tag) ∈ sent.me.sent ∧ (peer, tag) ∈ sent.me.recvd ∧
    (peer, tag) ∉ s.me.sent ∧ (peer, tag) ∉ s.me.recvd ∧ placeIs (yplace s 1 1) (.at (.wall 0 0 7) 0) = true ∧
    placeIs (yplace (exchanging (rec1 0 1 0 4 7) 4) 1 1) (.beyond 0) = true ∧ placeIs (yplace (exchanging (rec1 0 0 0 4 1535) 1) 1 1) (.bad .wallRange 0 [0]) = true ∧
    32 ≤ (many.me.sent.filter fun q => q.1 = peer).length ∧ ¬ 32 ≤ (s.me.sent.filter fun q => q.1 = peer).length ∧
    ((with1 recv sendAcc).chip.acc 0 = some sendAcc ∧ sendAcc.home = some 0 ∧ sendAcc.stage = .forwarded ∧ 0 < recv.chip.dies.length ∧
      (recv.chip.die 0).inc = sendAcc.inc ∧ (recv.chip.die 0).present = true ∧ sendAcc.sinc = (recv.chip.die 1).inc ∧ sendAcc.kind = .send ∧
      (recv.chip.die 0).launch = sendAcc.launch ∧ (recv.chip.die 0).ssnum.toNat = sendAcc.b.toNat ∧
      (s.chip.die 0).entries = [] ∧ (recv.chip.die 0).run = .running ∧ { sendAcc with b := 1 }.b.toNat ≠ 0) ∧
    ((recv.withMe fun x => { x with run := .ended }).chip.die 0).run = .ended ∧ ((s.withMe fun x => { x with run := .ended }).chip.die 0).entries = [] ∧ s.me.fences = [] ∧
    ((w 0xFFF).me.view = 0 ∧ (w 0xFFF).me.dev < 8) ∧ (∀ d ∈ List.range 12, ((w 0).cx.rs 1).toNat.testBit d = false) := by
  decide +kernel

/-! ### Witnesses: walkers and homes -/

/-- A row of die 0's near tier beyond the reserved range. -/
def nearKey : Nat := memAddr kNear 0 0x100000
/-- A leaf: near tier, die 0, frame 256, FP32, and its state. -/
def leafVal (st : Nat) : BitVec 64 := BitVec.ofNat 64 (st * 2 ^ 6 + 256 * 2 ^ 8 + 2 ^ 36)
/-- Die 0 with a directory whose first root is page table 0x20000, and a buffered leaf. -/
def walked (v : BitVec 64) : State := onMe fun x => { x with dir := {
  en := true, sweep := 5, roots := [(0, BitVec.ofNat 64 (1 + 4 * 2 ^ 15))], buf := [(0x20000, { val := v, changed := 0, dirty := true, rAt := none, wAt := none })] } }

theorem wit_HomesPerform :
    let here (k : AccKind) : Acc := { accOf k (.phys 0 0 0x100000) .forwarded with home := some 0, key := nearKey, be := allBytes, word := 7 }
    let ready (s : State) (a : Acc) (wr : Bool) : Bool := a.stage == .forwarded && a.home == some 0 && (s.chip.die 0).inc == a.inc &&
      (s.chip.die 0).present && a.ready.isNone && (a.holdUp s 0 wr).isNone &&
      (match pcOf a.key with | some (d, k, pc) => !((s.chip.die d).stack k).training pc | none => true)
    let rd := with1 base (here .ldRow)
    let st := with1 base (here .stWord)
    let at' := with1 base (here .atom)
    let red := with1 base (here .red)
    let node := with1 (engine [node0 .copy .launched 4]) { here .nodeWrite with node := some (5, 0) }
    let mon : Monitor := ⟨3, .phys 0 0 0x100000, nearKey, 0, false, true, true, 0, 0, 0, 0, 0, {}⟩
    let arm := (with1 base { here .arm with a := 3 }).withMe fun x => { x with monitors := [mon] }
    let second := (with1 base { here .arm with a := 4 }).withMe fun x => { x with monitors := [mon, { mon with id := 4, armed := false }] }
    let look := { here .arm with a := 5, fn := 2 }
    let clear := { here .arm with fn := 1 }
    let walk (s : State) : State := with1 s { accOf .ldRow (.virt 0 0) .toWalker with dirDie := 0, off := 0 }
    (ready rd (here .ldRow) false ∧ rd.chip.acc 0 = some (here .ldRow) ∧ (here .ldRow).id = 0 ∧ rd.chip.isBad nearKey = false ∧
      rd.chip.undo = [] ∧ pageOf nearKey = none ∧ rd.chip.isDead nearKey = false) ∧
    (ready st (here .stWord) true ∧ 7 < 8 ∧ ready at' (here .atom) true ∧ ready red (here .red) true) ∧
    (ready node { here .nodeWrite with node := some (5, 0) } true ∧ ∃ m ∈ (node.chip.die 0).node 5, m.fault = none) ∧
    (∃ m ∈ arm.chip.monsOf 0, m.armed = true ∧ m.row = nearKey) ∧ (ready arm { here .arm with a := 3 } false ∧
      (∃ m ∈ (arm.chip.die 0).monitors, m.id = ({ here .arm with a := 3 } : Acc).a.toNat) ∧ ({ here .arm with a := 3 } : Acc).fn = 0 ∧
      (arm.chip.die 0).monitors.find? (fun m => m.armed && m.row == nearKey && m.id != 3) = none ∧
      (ready second { here .arm with a := 4 } false ∧
        (second.chip.die 0).monitors.find? (fun m => m.armed && m.row == nearKey && m.id != 4) = some mon) ∧
      (ready (with1 base look) look false ∧ look.fn ∉ [0, 1] ∧ (base.chip.die 0).monitors.find? (fun m => m.armed && m.row == nearKey && m.id != 5) = none) ∧
      (ready (with1 arm clear) clear false ∧ clear.fn = 1) ∧
      arm.chip.migsWhere (fun m => m.state != .waiting && inFrame m.oldAddr nearKey) = []) ∧
    (∀ s ∈ [base, walked (leafVal 0), walked (leafVal 2), walked 0], ∃ a ∈ (walk s).chip.acc 0, a.stage = .toWalker ∧
      ((walk s).chip.die a.dirDie).inc = a.inc ∧ ((walk s).chip.die a.dirDie).present = true ∧ a.dirDie < (walk s).chip.dies.length) ∧
    base.chip.leafAt 0 0 = none ∧ (walked 0).chip.leafAt 0 0 = some 0x20000 ∧ ((walked 0).chip.die 0).dir.leaf 0x20000 ≠ none ∧
    ((walked 0).withMe fun x => { x with dir := { x.dir with buf := [] } }).me.dir.leaf 0x20000 = none ∧
    ((walked (leafVal 0)).chip.leafWaits 0 0x20000 = 0 ∧ (walked (leafVal 0)).chip.leafBad 0 0x20000 = false ∧
      ((base.withMe fun x => x.modStack 0 fun h => { h with pcsel := 0x100 }).chip.leafWaits 0 0x20000 ≠ 0)) ∧
    ((accOf .plread (.virt 0 0) .toWalker).kind = .plread ∧ (accOf .plread (.virt 0 0) .toWalker).dirDie < base.chip.dies.length) ∧
    ((accOf .nodeRead (.virt 0 0) .toWalker).kind.isNode = true ∧ (leafVal 0).toNat / 2 ^ 36 % 32 = 1 ∧ 1 ≠ 2) ∧
    leafOk (leafVal 0).toNat = true ∧ leafOk 3 = false ∧ (leafVal 2).toNat / 2 ^ 6 % 4 = 2 ∧ (leafVal 0).toNat / 2 ^ 6 % 4 ≠ 2 := by
  decide +kernel

/-- A leaf that reads uncorrectably, a write of a leaf, an acknowledged arm that found another entry, an acknowledgement and a return. -/
theorem wit_HomesPerform_leaves :
    let here (k : AccKind) : Acc := { accOf k (.phys 0 0 0x100000) .forwarded with home := some 0, key := nearKey, be := allBytes, word := 7 }
    let w := { here .plwrite with key := memAddr (homeKind 0) 0 0x20000 }
    let s := with1 (walked (leafVal 0)) w
    let bad := base.withChip fun c => { c with bad := [leafRow 0 0x20000] }
    let found := (with1 base { here .arm with a := 4, b := 3, fn := 3 }).withMe fun x => { x with
      monitors := [⟨3, .phys 0 0 0x100000, nearKey, 0, false, true, true, 0, 0, 0, 0, 0, {}⟩] }
    (bad.chip.leafWaits 0 0x20000 = 0 ∧ bad.chip.leafBad 0 0x20000 = true) ∧
    (s.chip.accs.all fun a => a.kind == .plwrite && a.stage == .forwarded && a.home == some 0 && (s.chip.die 0).inc == a.inc && a.ready.isNone &&
      (a.holdUp s 0 true).isNone && (pcOf a.key).all fun (d, k, pc) => !((s.chip.die d).stack k).training pc) = true ∧
    (s.chip.die 0).present = true ∧ s.chip.isDead (leafRow 0 0x20000) = false ∧ s.chip.leafBad 0 0x20000 = false ∧
    (found.chip.accs.all fun a => a.fn == 3 && (found.chip.die a.die).monitors.any fun m => m.id == a.b.toNat) = true ∧
    ({ here .ldRow with rest := 5, die := 1 } : Acc).rest ≠ 0 ∧ 0 ≠ ({ here .ldRow with rest := 5, die := 1 } : Acc).die ∧
    (accOf .ldRow .beyond .forwarded).rest = 0 ∧ ({ here .atom with path := 7, node := some (9, 0) } : Acc).returns ≠ none := by decide +kernel

theorem wit_HomesPerform_reds :
    let r : RedEntry := ⟨0, 4, 0, 0, 0⟩
    let s := (with1 base { accOf .red (.phys 0 0 0) .forwarded with id := 4 }).withMe fun x => { x with reds := [r] }
    0 < 12 ∧ 0 < s.chip.dies.length ∧ (∀ e ∈ s.me.reds, e.acc ≠ 5) ∧ (∃ e ∈ s.me.reds, e.acc = 4) ∧ (∃ a ∈ s.chip.acc 4, a.id = 4) ∧ 3 < 4 ∧
    ¬ ((15 : BitVec 4).toNat ≤ 5) := by decide +kernel

theorem wit_RequestersLand :
    let done (k : AccKind) : Acc := { accOf k (.phys 0 0 0x100000) .performed with key := nearKey }
    let failed (k : AccKind) : Acc := { done k with stage := .failed, code := .targetLost }
    let load := with1 base { done .ldRow with entry := some 3 }
    let open' (w : LandWhat) : Entry := ⟨3, 0, 0, w, true, 9, false, none, 0, {}, [], [], 0⟩
    let counts := onMe fun x => { x with queues := [(1, [0, 5])] }
    let held := (onMe fun x => { x with entries := [{ open' (.word 4) with arrived := false }] })
    base.chip.acc 0 = none ∧ (∃ a ∈ load.chip.acc 0, a.id = 0 ∧ a.die < load.chip.dies.length ∧ (load.chip.die a.die).inc = a.sinc ∧ a.stage = .performed ∧
      a.kind ∉ [.nodeRead, .arm, .image, .restore] ∧ a.entry ≠ none) ∧
    ((done .restore).kind = .restore ∧ (done .restore).stage = .performed ∧ { done .restore with launch := some 7 }.launch = some 7) ∧
    ((failed .ldRow).target.isVirt = false ∧ { failed .ldRow with target := .virt 0 0 }.target.isVirt = true) ∧
    ((failed .stRow).code ≠ .uncorrectable ∧ (base.chip.die 0).logOut = [] ∧ (base.chip.die 0).logF.length < 128 ∧
      128 ≤ ((onMe fun x => { x with logF := List.replicate 128 ⟨9, 0, false, .pageFault, 0⟩ }).chip.die 0).logF.length) ∧
    ({ done .hostRd with path := 7, node := some (9, 0) } : Acc).returns = some 9 ∧ (failed .stRow).path = 6 ∧
    (({ failed .stRow with sh := true } : Acc).sh = true ∧ (onMe fun x => { x with inShadow := true }).me.inShadow = true ∧ (failed .stRow).sh = false) ∧
    (base.chip.die 0).inc ≠ ({ done .ldRow with sinc := 1 } : Acc).sinc ∧ (done .nodeRead).kind = .nodeRead ∧ (done .arm).kind = .arm ∧
    (done .stRow).entry = none ∧ (failed .ldRow).stage = .failed ∧ (failed .ldRow).kind ∈ [.ldWord, .ldRow] ∧
    ¬ ((failed .ldRow).code = .pageFault ∧ (failed .ldRow).cause = 1) ∧ (failed .stRow).path = 6 ∧ (base.chip.die 0).logF = [] ∧
    (counts.chip.die 0).counts 1 = [0, 5] ∧ 56 + 8 ≤ 64 ∧ (1 : Nat) ≠ 0 ∧ (open' (.word 4)).what = .word 4 ∧
    (base.chip.die 0).frozen = false ∧ (held.chip.die 0).frozen = true ∧ (held.chip.die 0).copy.nodes = [] ∧ (held.chip.die 0).matrix.follow = [] ∧
    (held.chip.die 0).fences = [] ∧ (held.chip.die 0).mace.jobs = [] ∧ held.chip.accs = [] ∧ (held.chip.die 0).main.waits = [] ∧
    (held.chip.die 0).shadow.waits = [] ∧ (∀ e ∈ (held.chip.die 0).entries, e.fault = none ∧ e.after = [] ∧ e.afterNodes = []) ∧ held.chip.events = [] ∧
    (0 / 2 % 64 / 8 = 0 ∧ (base.chip.die 0).lastSc ≠ some (0 / 2)) ∧ ¬ 16 / 2 % 64 / 8 = 0 := by decide +kernel

/-! ### Witnesses: barriers, monitors, queues and firmware events -/

/-- Die 0 with a monitor on a wall row. -/
def watching (trig acked : Bool) : State :=
  (placed base (rec1 0 0 0 4 7) 0).withMe fun x => { x with monitors := [⟨3, .wall 0 0 7, 64 * 7, 0, trig, true, acked, 0, 0, 0, 0, 0, {}⟩] }
/-- Die 0 holds. -/
def waiting (w : Wait) : State := onCtx fun y => { y with waits := [w] }

theorem wit_BarriersMonitors :
    let full := (placed base (rec1 0 0 0 4 7) 0).withMe fun x => { x with monitors := List.replicate 64 ⟨3, .beyond, 0, 0, false, true, true, 0, 0, 0, 0, 0, {}⟩ }
    let found (s : State) (f : Monitor → Bool) : Bool := match s.monOf s.cd (.wall 0 0 7) with | some m => f m | none => false
    let bar (n : Nat) : Barrier := { phase := BitVec.ofNat 16 n }
    let past (n v : Nat) : Nat := ((bar n).phase - BitVec.ofNat 16 v).toNat
    base.cd < base.chip.dies.length ∧ (past 1 0 = 1 ∧ past 0 0 = 0 ∧ past 32767 0 = 32767 ∧ past 32768 0 = 32768) ∧
    ((yOf 1 1 1).fn = 1 ∧ (yOf 1 1 0).fn ≠ 1) ∧ user.sysMode = false ∧ base.sysMode = true ∧
    placeIs (yplace (watching true true) 1 1) (.at (.wall 0 0 7) 0) = true ∧ placeIs (yplace (placed base (rec1 0 0 0 4 7) 4) 1 1) (.beyond 7) = false ∧
    placeIs (yplace (placed base (virt 0) 4) 1 1) (.fill 0x1000000 0) = true ∧
    placeIs (yplace (placed base (rec1 0 0 0 4 1535) 1) 1 1) (.bad .wallRange 0 [0]) = true ∧
    found (watching true true) (fun m => m.triggered && m.acked) = true ∧ found (watching false true) (fun m => !m.triggered && m.acked) = true ∧
    found (watching false false) (fun m => !m.triggered && !m.acked) = true ∧ (full.monOf 0 (.wall 0 0 7)).isNone = true ∧
    64 ≤ full.me.monitors.length ∧ base.me.monitors.length < 64 ∧ full.me.monitors ≠ [] ∧
    (full.rowKey 0 (.wall 0 0 7)).isSome = true ∧ full.rowKey 0 (.virt 0 0) = none ∧ (full.monOf 0 (.virt 0 0)).isNone = true ∧ (base.monOf 0 (.wall 0 0 7)).isNone = true ∧ (base.chip.die 0).shadow.waits = [] ∧
    (((waiting (.bwait 1 0 none 0 4)).chip.die 0).main.waits = [.bwait 1 0 none 0 4]) ∧
    (((waiting (.fwait 255 (some 0) 4)).chip.die 0).main.waits = [.fwait 255 (some 0) 4]) ∧
    (let s := (watching true true).withCtx fun y => { y with waits := [.waita 3 0 none 0 4] };
      (s.chip.die 0).main.waits = [.waita 3 0 none 0 4] ∧ ((s.chip.die 0).monitors.find? fun k => k.id = 3).isSome = true) := by decide +kernel

/-! ### Witnesses: the system -/

/-- Package address 0 upward lies at offset 0 of die 0's directory, as each die holds the region table. -/
def table0 : SMap Word := [(1, 0x40000000), (3, 0x400001)]
/-- Page 0 of die 0's directory is frame 256 of its near tier, in a state; every die holds the region table. -/
def mapped (st : Nat) : State := (walked (leafVal st)).withChip fun c => { c with
  dies := c.dies.map fun x => { x with regionTable := table0 } }

theorem wit_SystemOps_control :
    let own (s : State) (n : Nat) : State := s.withChip fun c => { c with semOwner := n }
    let rcb := own (mapped 0) 1
    let far := base.withMe fun x => { x with view := 2, dev := 7 }
    base.chip.semOwner = 0 ∧ (own base 1).chip.semOwner = 1 ∧ (own base 2).chip.semOwner = 1 + 1 ∧ base.chip.semOwner ≠ 1 + 1 ∧
    ((mapped 2).blockHeld 5 ≠ 0 ∧ rcb.blockHeld 5 = 0 ∧ rcb.chip.stage = 6 ∧ State.reset.chip.stage ≠ 6) ∧
    (rcb.chip.semOwner = 1 + 0 ∧ rcb.chip.launches = [] ∧ (rcb.blockAt 5 == some 0) = true ∧
      ({ rcb.chip with regions := SMap.set 0 rcb.chip.regions 5 0 } : Chip).blockOk 5 = true) ∧
    (base.cd < base.chip.dies.length ∧ base.me.dev < 8 ∧ (far.me.view = 2 ∧ far.me.dev < 8)) ∧ user.sysMode = false ∧ base.sysMode = true ∧
    (own base 4).chip.semOwner = 4 + base.cd ∧ base.chip.semOwner ≠ 4 + base.cd ∧ (0 ≤ 5 ∧ 5 ≤ 5) := by decide +kernel

theorem wit_SystemOps_invalidate :
    let w (n : Nat) : State := onCtx fun y => { y with s := [(2, BitVec.ofNat 64 n)] }
    let mask (n : Nat) : Nat := ((w n).cx.rs 2).toNat
    let gate := base.withDie 11 fun x => { x with gated := true }
    let logged := onMe fun x => { x with logF := [⟨0, 0, false, .pageFault, 0⟩] }
    mask 0x1000 / 2 ^ 12 % 16 ≠ 0 ∧ mask 0xFFF / 2 ^ 12 % 16 = 0 ∧ (∀ d ∈ List.range 12, (mask 0).testBit d = false) ∧
    (base.me.view = 0 ∧ (mask 0xFFF).testBit 11 = true ∧ 11 < 12) ∧ base.chip.dies.length = 12 ∧
    ((gate.chip.die 11).gated = true ∧ (gate.chip.die 0).gated = false ∧ (gate.chip.die 0).present = true) ∧
    ((logged.chip.die 0).log 0).length = 1 ∧ ((base.chip.die 0).log 0).length = 0 := by decide +kernel

theorem wit_SystemOps_block : 0 < (mapped 0).chip.dies.length ∧ 0 ≤ (mapped 0).chip.now ∧ (mapped 0).chip.launches = [] ∧
    ((mapped 0).blockAt 5 == some 0) = true ∧ (mapped 0).blockHeld 5 = 0 ∧ (mapped 2).blockHeld 5 ≠ 0 ∧
    ({ (mapped 0).chip with regions := SMap.set 0 (mapped 0).chip.regions 5 0 } : Chip).blockOk 5 = true := by decide +kernel

theorem wit_SystemOps_logs :
    let e (disc : Bool) : LogEntry := ⟨0, 0, disc, .pageFault, 0⟩
    let s (st : Stage) (disc : Bool) : State := (with1 base (accOf .stRow (.phys 0 0 0x100000) st)).withMe fun x => { x with logF := [e disc] }
    ((base.chip.die 0).log 0).isEmpty = true ∧ (((s .logged true).chip.die 0).log 0 == [e true]) = true ∧
    (base.chip.acc (e true).acc).isNone = true ∧
    ((s .logged true).chip.accs.all fun a => a.id == 0 && a.node.isNone && a.launch.isNone && a.stage == .logged && !([.osend, .send, .nodeRead].contains a.kind) &&
      a.fill.isNone) = true ∧ (((s .start false).chip.accs.all fun a => a.stage != .logged)) = true ∧ (e false).disc = false := by decide +kernel

theorem wit_SystemOps_containment :
    let s := launched id
    let fatal := s.withMe fun x => { x with trap := some { faultI with cls := 'F' } }
    let held := s.withMe fun x => { x with heldFor := x.terms.fbt + 1 }
    (base.chip.launchOf 0).isNone = true ∧ ((s.chip.die 0).trap.isNone && decide ((s.chip.die 0).heldFor ≤ (s.chip.die 0).terms.fbt)) = true ∧
    (s.chip.launches.length = 1 ∧ s.chip.launches.all (fun l => l.id == 7 && l.state != .ended && l.status != 8 && l.dies == [0]) = true) ∧
    (s.chip.die 0).launch = some 7 ∧ (∀ e ∈ List.range 12, (s.chip.die e).migs = []) ∧
    ((fatal.chip.die 0).trap.map (fun q => (q.cls, q.code)) = some ('F', .illegalOp)) ∧ (held.chip.die 0).trap.isNone = true ∧
    (held.chip.die 0).terms.fbt < (held.chip.die 0).heldFor := by decide +kernel

theorem wit_SystemOps_reset :
    let own := base.withChip fun c => { c with semOwner := 1 }
    own.chip.semOwner = 1 + 0 ∧ own.chip.cattrip = none ∧ 7 < 12 ∧ 7 ≠ 8 ∧ own.chip.dies.length = 12 ∧ own.chip.launches = [] ∧ own.chip.accs = [] ∧
    own.chip.invals = [] ∧ (∀ e ∈ List.range 12, (own.chip.die e).migs = [] ∧ (own.chip.die e).monitors = []) ∧ own.chip.semOwner ≠ 4 + 7 := by
  decide +kernel

/-! ### Witnesses: launches -/

/-- A vector of region 0 with one entry, at bundle 3 of die 0. -/
def vector0 : BitVec 512 := BitVec.ofNat 512 ((2 ^ 64 - 1) * 2 ^ 448 + (2 ^ 256 - 2 ^ 32) + 3)

/-- The base with a slice of one unit for region 0, and its vector passes every check. -/
theorem wit_Launches_start :
    let s := base.withChip fun c => { c with regions := [(0, blockOf 16)] }
    let v := vector0.toNat
    s.chip.stage = 6 ∧ s.chip.cattrip = none ∧ v % 2 ^ 32 ≠ 0xFFFFFFFE ∧ s.chip.svCheck 0 v [0] [] = 0 ∧
    s.chip.svCheck 0 (2 ^ 512 - 1) [0] [] ≠ 0 ∧ State.reset.chip.stage ≠ 6 := by decide +kernel

theorem wit_Launches_steps :
    let at' (f : Launch → Launch) : State := launched fun l => f { l with path := 3 }
    let late := at' fun l => { l with issueAt := 5 }
    let now := at' id
    let only (s : State) (f : Launch → Bool) : Bool := s.chip.launches.length == 1 && s.chip.launches.all f
    (∀ l ∈ base.chip.launches, l.id ≠ 7) ∧ (now.chip.launches.find? fun k => k.id == 7).isSome = true ∧
    only (at' fun l => { l with state := .ended }) (fun l => l.state == .ended) = true ∧
    only late (fun l => l.path == 3 && l.state == .running && l.status == 0 && decide (late.chip.now < l.issueAt)) = true ∧
    only now (fun l => l.path == 3 && l.state == .running && l.status == 0 && decide (l.issueAt ≤ now.chip.now) &&
      (l.wanted now.chip).all (fun k => l.has k) && l.dies == [0] && decide (0 < now.chip.dies.length)) = true ∧
    only late (fun l => l.sliceAt == 0 && !l.runnable) = true ∧ only (at' fun l => { l with sliceAt := 9 }) (fun l => l.sliceAt != 0) = true ∧
    only (at' fun l => { l with word := 2 }) (fun l => l.word == 2 && l.status != 8) = true ∧
    only (at' fun l => { l with word := 1 }) (fun l => l.word == 1) = true ∧
    only now (fun l => l.word == 0 && !l.finished now.chip) = true ∧ now.chip.events = [] := by decide +kernel

theorem wit_Launches_over :
    let s := (launched fun l => { l with endedDies := [0] }).withMe fun x => { x with run := .ended }
    (s.chip.launches.length == 1 && s.chip.launches.all (fun l => l.word == 0 && l.finished s.chip && l.dies == [0])) = true ∧
    (s.chip.die 0).launch = some 7 ∧ 0 < s.chip.dies.length := by decide +kernel

/-- Die 0's context, saved. -/
def savedOf (d : Nat) : Saved := ⟨d, {}, .running, {}, 0, 0, 0, false, 0, 0, none, true, 0, terms0, 0, [], [], 0, [], {}, {}, {}, []⟩

theorem wit_Launches_restore :
    let s := launched fun l => { l with saved := [savedOf 0] }
    let waits := with1 s { accOf .restore (.phys 0 0 0x100000) .forwarded with launch := some 7 }
    let saved (s : State) : List Nat := (s.chip.launches.map fun l => l.saved.map (·.die)).flatten
    fld (savedOf 0).kept.toNat 104 4 = 0 ∧ (savedOf 0).kept.getLsbD 108 = false ∧ { savedOf 0 with kept := BitVec.allOnes 111 }.kept.getLsbD 108 = true ∧
    (s.chip.launches.all fun l => l.state == .running && !l.saved.isEmpty) = true ∧ saved s = [0] ∧ (saved s).Nodup ∧ 0 < s.chip.dies.length ∧
    s.chip.accs.length = 0 ∧ (waits.chip.accs.any fun a => a.kind == .restore && a.launch == some 7) = true := by decide +kernel

/-! ### Witnesses: translation and migration -/

/-- A request of die 0 that a table entry waits for. -/
def asking (l : List Nat) : State :=
  (with1 base (accOf .ldRow (.virt 0 0) .ats)).withMe fun x => { x with ats := [⟨5, l, false⟩] }
/-- Far die 8 moves page 0 of die 0's directory from near frame 256 to near frame 512. -/
def moving (st : MigState) (dirty round froze : Nat) : State := (mapped 0).withDie 8 fun x => { x with migs :=
  [⟨7, 0, 5, 0, 0, 0x20000, 0, 0, 256, 0, 0, 512, 0, 0, st, BitVec.allOnes 256, BitVec.ofNat 256 dirty, 0, 0, 1, 1, [], [], round, froze,
    none, 0, 0, {}⟩] }

theorem wit_PagesMove_caches :
    let s := asking [0]
    let one (f : AtsReq → Bool) : Bool := match (s.chip.die 0).ats.find? (fun q => q.page == 5) with | some r => f r | none => false
    let refused := with1 base { accOf .ldRow (.virt 0 0) .failed with code := .pageFault, cause := 1, va := 5 * 2 ^ 16 }
    0 < 12 ∧ s.chip.dies.length = 12 ∧ (accOf .ldRow (.virt 0 0) .ats).die = 0 ∧ ((base.chip.die 0).ats.all fun r => r.page != 5) = true ∧
    (s.chip.accs.all fun a => a.kind != .osend) = true ∧ one (fun r => !r.marked && r.accs == [0]) = true ∧ (s.chip.die 0).atsWait = [] ∧
    (s.chip.accs.all fun a => a.id == 0 && a.stage == .ats) = true ∧
    (refused.chip.accs.all fun a => a.die == 0 && a.stage == .failed && a.code == .pageFault && a.cause == 1 && !a.asked && a.va / 2 ^ 16 == 5) = true ∧
    (0x060 ∉ [0x040, 0x050, 0x058] ∧ 0x050 ∉ [0, 0x040, 0x048, 0x060, 0x068] ∧ allBytes.toNat % 256 = 255 ∧ base.chip.stage = 6 ∧
      State.reset.chip.stage ≠ 6 ∧ State.reset.chip.berr = 0 ∧ (State.reset.withChip fun c => { c with berr := 1 }).chip.berr ≠ 0) ∧
    ((base.chip.die 0).gated = false ∧ (base.chip.die 0).present = true) ∧ (base.chip.die 8).regionOf 0 = none ∧
    ((mapped 0).chip.die 8).regionOf 0 = some (0, 0) ∧ 0 / 2 ^ 56 = (mapped 0).chip.pkgId := by decide +kernel

theorem wit_PagesMove_directory :
    let x (dirty : Bool) (changed : Nat) : State := (onMe fun x => { x with dir := { x.dir with buf := [(0x20000, { val := leafVal 0, changed := changed, dirty := dirty, rAt := none, wAt := none })] } }).withChip
      fun c => { c with now := 5000 }
    let late (s : State) (f : Leaf → Bool) : Bool := match (s.chip.die 0).dir.leaf 0x20000 with | some l => f l | none => true
    let sweeps := (mapped 0).withMe fun x => { x with dir := { x.dir with buf := [] } }
    0 < 12 ∧ 0 < base.chip.dies.length ∧ 0x20000 % 8 = 0 ∧ late (x false 0) (fun l => !l.dirty) = true ∧
    late (x true 4000) (fun l => decide (5000 < l.changed + 4096)) = true ∧ late (x true 904) (fun l => l.dirty && decide (l.changed + 4096 ≤ 5000)) = true ∧
    ((base.chip.die 0).dir.sweep = 0 ∧ (sweeps.chip.die 0).dir.sweep ≠ 0 ∧ (sweeps.chip.die 0).dir.en = true) ∧
    late (x true 904) (fun l => l.rAt.isNone && l.wAt.isNone && l.cyc != 5000) = true ∧
    ((x true 904).chip.leafDelay 0 0x20000 = 0 ∧ sweeps.chip.leafDelay 0 0x20000 = 0 ∧
      (sweeps.withMe fun x => x.modStack 0 fun h => { h with pcsel := 0x100 }).chip.leafDelay 0 0x20000 ≠ 0) ∧
    (base.chip.isDead (leafRow 0 0x20000) = false ∧ base.chip.isBad (leafRow 0 0x20000) = false ∧
      (base.withMe fun x => x.modStack 0 fun h => { h with repair := (List.range 256).map fun n => (n, 0x20) }).chip.isDead (leafRow 0 0x20000) = true ∧
      (base.withChip fun c => { c with bad := [leafRow 0 0x20000] }).chip.isBad (leafRow 0 0x20000) = true) ∧
    (0x500 / 2 ^ 8 % 2 ^ 24 = (sweeps.chip.die 0).dir.sweep.toNat ∧ 0x100 / 2 ^ 8 % 2 ^ 24 ≠ (sweeps.chip.die 0).dir.sweep.toNat) ∧
    (sweeps.chip.die 0).dir.sweepNext 0 = some (0, 0x20000) ∧ ((sweeps.chip.die 0).dir.leaf 0x20000).isNone = true := by decide +kernel

theorem wit_PagesMove_migrations :
    let s := moving .moving 15 8 0
    let m (s : State) (f : Mig → Bool) : Bool := match (s.chip.die 8).migs with | [m] => m.id == 7 && f m | _ => false
    let fast := with1 s { accOf .ldRow (.virt 0 0) .forwarded with key := memAddr kNear 0 (256 * 2 ^ 16) }
    s.chip.statusWait = [] ∧ s.chip.cattrip = none ∧ m s (fun k => !s.chip.loadedBeside k) = true ∧
    m s (fun k => let r := k.rows.getD 0 0; let a := k.oldAddr + 64 * r; let b := k.newAddr + 64 * r
      [a, b].all (fun c => !s.chip.isPaused c && !s.chip.inTraining c) && !s.chip.isBad a && !s.chip.isDead b &&
        (s.withChip fun c => { c with bad := [a] }).chip.isBad a &&
        (s.withMe fun x => x.modStack 0 fun h => { h with repair := (List.range 256).map fun n => (n, 0x20) }).chip.isDead b) = true ∧
    8 < 12 ∧ (base.chip.die 8).migs = [] ∧ (mapped 0).chip.dies.length = 12 ∧
    m s (fun k => decide (k.h < 12) && k.leaf % 8 == 0 && !inFrame k.newAddr (memAddr (homeKind k.h) k.h (rowBase k.leaf)) && k.state != .waiting) = true ∧
    s.chip.bad = [] ∧ m s (fun k => decide (popN k.dirty.toNat 256 ≤ 4)) = true ∧ m (moving .moving 31 8 0) (fun k => decide (4 < popN k.dirty.toNat 256) && k.round == 8) = true ∧
    m (moving .moving 31 7 0) (fun k => decide (4 < popN k.dirty.toNat 256) && k.round != 8) = true ∧
    m fast (fun k => fast.chip.accs.all fun a => a.stage == .forwarded && inFrame k.oldAddr a.key && a.target.isVirt) = true ∧ s.chip.accs.length = 0 ∧
    (let t := (moving .frozen 0 3 0).withChip fun c => { c with now := 3600 };
      m t (fun k => k.state == .frozen && decide (k.froze + 3600 ≤ 3600)) = true ∧ m s (fun k => k.state != .frozen) = true) ∧
    m s (fun k => !s.chip.watched k.oldAddr) = true ∧
    m (s.withMe fun x => { x with monitors := [⟨3, .virt 0 0, memAddr kNear 0 (256 * 2 ^ 16), 0, false, true, true, 0, 0, 0, 0, 0, {}⟩] })
      (fun k => (s.withMe fun x => { x with monitors := [⟨3, .virt 0 0, memAddr kNear 0 (256 * 2 ^ 16), 0, false, true, true, 0, 0, 0, 0, 0, {}⟩] }).chip.watched k.oldAddr)
      = true := by decide +kernel

/-! ### Witnesses: bring-up, links and other packages -/

/-- After reset the boot flash holds no image: neither slot is valid. A valid image needs a key whose hash is the opaque
ROM constant, so no closed term is one. -/
theorem wit_BringupOptical_boot :
    State.reset.chip.berr = 0 ∧ State.reset.chip.stage = 0 ∧ base.chip.stage ≠ 0 ∧ base.chip.stage ≠ 2 ∧ State.reset.imgErr 0 ≠ 0 ∧
    State.reset.imgErr 1 ≠ 0 := by decide +kernel

/-- What two listed bytes read as. -/
theorem two_bytes (b k : Nat) : Memory.read [(b + 6, 1), (b + 256, 3)] (b + k) = if 6 = k then 1 else if 256 = k then 3 else 0 := by
  simp only [Memory.read, Nat.add_left_cancel_iff]

/-- A flash image whose section count is 1 and whose first section is of kind 3 has one control block: the hypothesis of BringupOptical on
one block, for whatever address the flash slot has. -/
theorem wit_BringupOptical_block (s : State) (b : Nat) (hb : slotBase 0 = b) (hm : s.mem = [(b + 6, 1), (b + 256, 3)]) :
    ((s.imgSections 0).filter fun x => x.kind == 3).length = 1 := by
  have img (off n : Nat) : s.imgNat 0 off n = leBytes ((List.range n).map fun j => if 6 = off + j then 1 else if 256 = off + j then 3 else 0) := by
    unfold State.imgNat State.img
    rw [hb, hm]
    congr 1
    induction n generalizing off with
    | zero => rfl
    | succ n ih =>
      have h := ih (off + 1)
      rw [List.range_succ_eq_map, List.map_cons, List.map_map, Memory.bytes, Nat.add_assoc, h, two_bytes]
      congr 1
      apply List.map_congr_left
      intro a _
      simp only [Function.comp, Nat.succ_eq_add_one, Nat.add_assoc, Nat.add_comm 1 a]
  simp only [State.imgSections, img]
  decide +kernel

theorem wit_BringupOptical_links :
    let trained := State.reset.withChip fun c => { c with stage := 2 }
    let asks := base.withChip fun c => { c with semOwner := 1 }
    let report (st : Nat) : State := (mapped st).withChip fun c => { c with abusy := true }
    trained.chip.stage = 2 ∧ trained.chip.berr = 0 ∧ (asks.chip.stage = 6 ∧ asks.chip.semOwner = 1 + 0 ∧ asks.chip.abusy = false ∧ asks.chip.cattrip = none) ∧
    base.chip.semOwner ≠ 1 + 0 ∧ (report 0).chip.abusy = true ∧ base.chip.abusy = false ∧
    (let rows := (List.range ((0 % 64 + 304 + 63) / 64)).map fun r => 0 / 64 * 64 + 64 * r;
      (rows.map (report 2).paHeld).foldl max 0 ≠ 0 ∧ (rows.map (report 0).paHeld).foldl max 0 = 0) ∧
    (∀ d ∈ List.range 12, ((report 0).chip.die d).dir.buf.length < 4000) ∧
    (0 ∈ base.chip.rloaded ∧ base.chip.blockOk 0 = true) ∧
    (trained.imgSections trained.chip.bslot).filter (fun x => x.kind == 3) = [] ∧ ¬ 0 ∈ trained.chip.rloaded ∧
    base.chip.dies.length = 12 ∧ 11 < 12 ∧ 3 < 4 ∧
    ((base.withMe fun x => { x with linkst := 1 }).me.linkUp 0 = true ∧ (farEnd 0 0).isSome = true) ∧
    (∀ h ∈ List.range 4, fld (base.chip.die 0).linkst.toNat (8 * h) 2 ≠ 1 ∧ fld (base.chip.die 0).linkst.toNat (8 * h) 2 ≠ 3) := by decide +kernel

/-- Slot 0 of the table: destination 9, one port, 64 cycles. -/
def slotted (open' : Option Nat) (q : List ORow) : State :=
  base.withChip fun c => { c with slots := [(0, BitVec.ofNat 64 (9 + 2 ^ 8 + 64 * 2 ^ 32))], oslot := open', oqueue := if q.isEmpty then [] else [(9, q)] }
/-- A row of die 0 for package 9. -/
def oRow : ORow := ⟨0, 0, none, 0, 0, 2 ^ 56 * 9, [], 7, true⟩

theorem wit_BringupOptical_slots :
    let e := (SMap.get 0 (slotted none []).chip.slots 0).toNat
    let epoch := base.withChip fun c => { c with events := [(9, .opticalEpoch)] }
    let s := slotted (some 0) [oRow]
    base.chip.events = [] ∧ (∃ x ∈ epoch.chip.events, x.2 = .opticalEpoch) ∧ (e % 2 ^ 8 = 9 ∧ popN (e / 2 ^ 8 % 2 ^ 24) 24 = 1 ∧ e / 2 ^ 32 % 2 ^ 12 = 64) ∧
    (slotted none []).chip.oslot ≠ some 0 ∧ (slotted (some 0) []).chip.oslot = some 0 ∧ SMap.get [] (slotted (some 0) []).chip.oaccs 9 = [] ∧
    SMap.get [] (slotted (some 0) []).chip.oqueue 9 = [] ∧ SMap.get [] s.chip.oqueue 9 = oRow :: [] ∧ SMap.get [] s.chip.oaccs 9 = [] ∧
    (let back := with1 (slotted (some 0) []) { accOf .ldRow .beyond .performed with path := 7, node := some (9, 0) };
      let r := back.withChip fun c => { c with oaccs := [(9, [0])] };
      SMap.get [] r.chip.oaccs 9 = [0] ∧ SMap.get [] r.chip.oqueue 9 = [] ∧ r.chip.oslot = some 0 ∧ (r.chip.accs.all fun a => a.id == 0 && a.returns.isSome) = true) ∧
    s.chip.launches = [] ∧ SMap.get 0 s.chip.osent oRow.region < s.chip.opt oRow.region * (64 * 1) / 256 := by decide +kernel

theorem wit_BringupOptical_arrivals :
    let inbound (st : Stage) : State := with1 (mapped 0) { accOf .hostWr (.virt 0 0) st with path := 7 }
    let reads := with1 (mapped 0) { accOf .ldRow (.virt 0 0) .forwarded with entry := some 3, home := none }
    ((((inbound .toWalker).chip.accs.filter isInbound).head?).map (·.stage)) = some .toWalker ∧
    ((mapped 0).chip.die 8).regionOf 0 = some (0, 0) ∧ (mapped 0).chip.accs.length = 0 ∧ (base.chip.die 8).regionOf 0 = none ∧
    (base.chip.acc 0).isNone = true ∧
    (reads.chip.accs.all fun a => a.id == 0 && a.home.isNone && a.stage == .forwarded && a.entry.isSome) = true := by decide +kernel

/-! ### Witnesses: stacks and power -/

/-- Die 0's lower stack changed, in package cycle 8,192. -/
def stacked (f : Hbm → Hbm) : State := (onMe fun x => x.modStack 0 f).withChip fun c => { c with now := 8192 }

theorem wit_StacksPower_stacks :
    let h (s : State) : Hbm := (s.chip.die 0).stack 0
    let hot (l w : Nat) := stacked fun h => { h with level := l, wheld := w }
    let sel := stacked fun h => { h with pcsel := 0x105 }
    let pat := stacked fun h => { h with job := some (.pattern 5 true 0 1) }
    let eye := stacked fun h => { h with job := some (.eye 5 8 true 255 0) }
    let tap := stacked fun h => { h with tapDue := some (true, 3, 9) }
    let late := (stacked fun h => { h with job := some (.eye 5 8 true 0 0) }).withChip fun c => { c with now := 262144 }
    let low := stacked fun h => { h with crcth := 1 }
    let stall := with1 (stacked fun h => { h with stalled := [0], pcsel := 0x105 }) { accOf .ldRow (.phys 0 0 0x100000) .forwarded with key := nearKey }
    0 < 8 ∧ 0 < 2 ∧ base.chip.dies.length = 12 ∧ (h base).next = (h base).level ∧ (h (stacked fun h => { h with next := 2 })).next ≠ 0 ∧
    ((h (hot 2 5)).level = 2 ∧ (h (hot 2 5)).since < 8192 ∧ (8192 - (h (hot 2 5)).since) % 8192 = 0 ∧ (h (hot 2 5)).wheld < 6) ∧
    ¬ (h (hot 2 6)).wheld < 6 ∧ ((h (hot 1 1)).level < 2 ∧ 0 < (h (hot 1 1)).wheld) ∧ ¬ 0 < (h (hot 1 0)).wheld ∧
    (h base).stalled = [] ∧ (0 ∈ (h stall).stalled ∧ (stall.chip.accs.all fun a => a.id == 0 && (pcOf a.key).isSome) = true) ∧
    ((h sel).job = none ∧ (h sel).pcsel.toNat.testBit 8 = true) ∧ (h base).pcsel.toNat.testBit 8 = false ∧
    (h pat).job = some (.pattern 5 true 0 1) ∧ (h eye).job = some (.eye 5 8 true 255 0) ∧ (h eye).tapAfter = none ∧ (h base).job = none ∧
    (h tap).tapDue = some (true, 3, 9) ∧ (h tap).job = none ∧ ((h late).job = some (.eye 5 8 true 0 0) ∧ 0 + 64 * (32 + 8 * (0 + 1)) ≤ late.chip.now ∧
      (h late).tapDue = none) ∧ 8192 < 0 + 64 * (32 + 8 * (255 + 1)) ∧
    ((SMap.get 0 (h low).crccnt 0).toNat < (h low).crcth.toNat ∧ (h low).crcth.toNat ≤ min 65535 (0 + 1) ∧ (h low).pcsel.toNat.testBit 8 = false ∧
      (SMap.get 0 (h low).repair 0).getLsbD 5 = false) ∧ 0x10008 % 16 ≤ 8 := by decide +kernel

theorem wit_StacksPower_power :
    let row := with1 base { accOf .ldRow (.phys 0 0 0x100000) .forwarded with key := nearKey }
    let more := with1 base { accOf .ldRow (.phys 0 0 0x100000) .forwarded with key := nearKey, retries := 4 }
    let wall := with1 base { accOf .ldRow (.wall 0 0 0) .forwarded with key := 0 }
    let trip := base.withChip fun c => { c with cattrip := some 0 }
    (base.chip.acc 0).isNone = true ∧ (∀ x ∈ base.chip.dies, x.migs = []) ∧ (wall.chip.accs.all fun a => a.id == 0 && (pcOf a.key).isNone) = true ∧
    (row.chip.accs.all fun a => a.id == 0 && decide (a.retries < 4) &&
      match pcOf a.key with | some (d, k, _) => decide (k < 2) && decide (d < row.chip.dies.length) | none => false) = true ∧
    (more.chip.accs.all fun a => decide (4 ≤ a.retries)) = true ∧ trip.chip.cattrip ≠ none ∧ base.chip.cattrip = none ∧
    (0x1038 < 0x1040 ∧ 0x1840 % 8 = 0 ∧ 0x1840 < 0x1900) ∧ (0x1040 ≤ 0x1838 ∧ 0x1838 < 0x1840) ∧ (0x1900 ≤ 0x1AF8 ∧ 0x1AF8 < 0x1B00) ∧
    (8 ≤ 11 ∧ 0x2000 ≤ 0x4008) ∧ ((base.chip.die 0).stack 1).job = none ∧
    (((base.withMe fun x => x.modStack 1 fun h => { h with pcsel := 0x1FF }).chip.die 0).stack 1).pcsel.toNat.testBit 8 = true := by decide +kernel

end Sys2Proof.Tests
end

section
/-!
SUPPORT. Proofs about the scalar operations with immediates and fields, the compares and the predicate logic (R146-R152, R162).
-/

namespace Sys2Proof.Machine

/-! ### The shared shapes of the scalar operations -/

/-- An operation of two registers puts its function of them in flight. -/
theorem alu_eq (lat d a b : Nat) (f : Word → Word → Word) (s : State) :
    alu lat d a b f s = .next (s.flying (s.sRes lat d (f (s.cx.rs a) (s.cx.rs b)))) := by
  rw [alu, finish_eq, State.after_laterS]

/-- An operation of a register and a value lands at L = 1. -/
theorem aluI_eq (d a : Nat) (v : Word) (f : Word → Word → Word) (s : State) :
    aluI d a v f s = .next (s.flying (s.sRes 1 d (f (s.cx.rs a) v))) := by
  rw [aluI, finish_eq, State.after_laterS]

/-- A meaning that only writes a predicate, as a compare or PSET does. -/
theorem finish_laterP (lat d : Nat) (b : Bool) (s : State) :
    finish s (laterP lat d b) = .next (s.flying (s.pRes lat d b)) := by
  rw [finish_eq, State.after_laterP]

/-- Predicate logic sees each operand xor its negation bit (R152). -/
theorem plogic_eq (d a b : Nat) (na nb : Bool) (f : Bool → Bool → Bool) (s : State) :
    plogic d a b na nb f s = .next (s.flying (s.pRes 1 d (f (s.cx.rp a != na) (s.cx.rp b != nb)))) :=
  finish_laterP 1 d _ s

/-! ### Words as numbers: sums and shifts -/

theorem word_add_ofInt (x : Word) (n : Int) : x + BitVec.ofInt 64 n = BitVec.ofInt 64 (x.toInt + n) := by
  rw [BitVec.ofInt_add, BitVec.ofInt_toInt]

theorem word_shiftLeft_eq (x : Word) (n : Nat) : x <<< n = BitVec.ofNat 64 (x.toNat * 2 ^ n) := by
  apply BitVec.eq_of_toNat_eq
  rw [BitVec.toNat_shiftLeft, BitVec.toNat_ofNat, Nat.shiftLeft_eq]

theorem word_shiftRight_eq (x : Word) (n : Nat) : x >>> n = BitVec.ofNat 64 (x.toNat / 2 ^ n) := by
  rw [← Nat.shiftRight_eq_div_pow, ← BitVec.toNat_ushiftRight, BitVec.ofNat_toNat, BitVec.setWidth_eq]

theorem word_sshiftRight_eq (x : Word) (n : Nat) : x.sshiftRight n = BitVec.ofInt 64 (x.toInt / 2 ^ n) := by
  rw [BitVec.sshiftRight, Int.shiftRight_eq_div_pow]
  norm_cast

/-- A sign-extended immediate in 0-63 is its own shift amount (R146). -/
theorem shamt_signExtend (imm : BitVec 20) (h : imm.toNat < 64) : shamt (imm.signExtend 64) = imm.toNat := by
  have pos : imm.toInt = imm.toNat := BitVec.toInt_eq_toNat_of_lt (by omega)
  have low : (BitVec.ofInt 64 imm.toInt).toNat = imm.toNat := by
    rw [pos, BitVec.ofInt_natCast, BitVec.toNat_ofNat]
    omega
  rw [shamt, BitVec.signExtend, low, Nat.mod_eq_of_lt h]

theorem wf_eq_false_of_inRange {i : Instr} (h : i.inRange = false) : i.wf = false := by
  rw [Instr.wf, h, Bool.and_false, Bool.false_and]

/-- Shifts by an immediate of 64 and up are not well-formed (R126, R146). -/
theorem shiftImm_not_wf (d a : Nat) (imm : BitVec 20) (h : 64 ≤ imm.toNat) :
    (Instr.shli d a imm).wf = false ∧ (Instr.shri d a imm).wf = false ∧ (Instr.sari d a imm).wf = false := by
  have beyond : decide (imm.toNat < 64) = false := decide_eq_false (Nat.not_lt.mpr h)
  exact ⟨wf_eq_false_of_inRange beyond, wf_eq_false_of_inRange beyond, wf_eq_false_of_inRange beyond⟩

/-! ### Fields of a number, bit by bit -/

theorem testBit_fld (w lo n i : Nat) : (fld w lo n).testBit i = (decide (i < n) && w.testBit (lo + i)) := by
  rw [fld, Nat.testBit_mod_two_pow, Nat.testBit_div_two_pow, Nat.add_comm]

/-- A number is its bits below a field, the field, and its bits above. -/
theorem fld_decompose (w pos len : Nat) :
    w = 2 ^ pos * (2 ^ len * (w / 2 ^ pos / 2 ^ len) + fld w pos len) + w % 2 ^ pos := by
  rw [fld, Nat.div_add_mod, Nat.div_add_mod]

/-- Taking a field out and adding another value in its place changes the bits of the field, and no other (R147, R148). -/
theorem testBit_replace_fld (w pos len v i : Nat) (hv : v < 2 ^ len) :
    (w - fld w pos len * 2 ^ pos + v * 2 ^ pos).testBit i =
      if pos ≤ i ∧ i < pos + len then v.testBit (i - pos) else w.testBit i := by
  have low : w % 2 ^ pos < 2 ^ pos := Nat.mod_lt _ (Nat.two_pow_pos pos)
  have hw := fld_decompose w pos len
  have new : w - fld w pos len * 2 ^ pos + v * 2 ^ pos =
      2 ^ pos * (2 ^ len * (w / 2 ^ pos / 2 ^ len) + v) + w % 2 ^ pos := by
    rw [Nat.mul_add, Nat.mul_comm _ (fld w pos len)] at hw
    rw [Nat.mul_add, Nat.mul_comm _ v]
    omega
  rw [new, Nat.testBit_two_pow_mul_add _ low, Nat.testBit_two_pow_mul_add _ hv]
  have old : w.testBit i = if i < pos then (w % 2 ^ pos).testBit i
      else if i - pos < len then (fld w pos len).testBit (i - pos) else (w / 2 ^ pos / 2 ^ len).testBit (i - pos - len) := by
    rw [← Nat.testBit_two_pow_mul_add _ (fld_lt w pos len), ← Nat.testBit_two_pow_mul_add _ low, ← hw]
  by_cases below : i < pos
  · have outside : ¬ (pos ≤ i ∧ i < pos + len) := by omega
    rw [if_pos below, if_neg outside, old, if_pos below]
  · by_cases inside : i - pos < len
    · have within : pos ≤ i ∧ i < pos + len := by omega
      rw [if_neg below, if_pos inside, if_pos within]
    · have outside : ¬ (pos ≤ i ∧ i < pos + len) := by omega
      rw [if_neg below, if_neg inside, if_neg outside, old, if_neg below, if_neg inside]

/-- The two's-complement value of a field is that of a word of its width. -/
theorem sint_eq_toInt (n x : Nat) : sint n x = (BitVec.ofNat n x).toInt := by
  simp only [sint, BitVec.toInt, BitVec.toNat_ofNat]

/-! ### Results bit by bit (R147-R150) -/

section
variable (x y z : Word) {i : Nat} (hi : i < 64)
include hi

theorem getLsbD_movk (hw : Nat) (imm : BitVec 16) : (movk x hw imm).getLsbD i =
    if 16 * hw ≤ i ∧ i < 16 * hw + 16 then imm.getLsbD (i - 16 * hw) else x.getLsbD i := by
  rw [movk, BitVec.getLsbD_ofNat, testBit_replace_fld _ _ _ _ _ imm.isLt]
  simp only [hi, decide_true, Bool.true_and, BitVec.testBit_toNat]

theorem getLsbD_insF (pos len : Nat) : (insF x y pos len).getLsbD i =
    if pos ≤ i ∧ i < pos + len then y.getLsbD (i - pos) else x.getLsbD i := by
  rw [insF, BitVec.getLsbD_ofNat, testBit_replace_fld _ _ _ _ _ (fld_lt _ _ _), testBit_fld]
  simp only [hi, decide_true, Bool.true_and, BitVec.testBit_toNat, Nat.zero_add]
  split
  · next within => rw [decide_eq_true (show i - pos < len by omega), Bool.true_and]
  · rfl

theorem getLsbD_extU (pos len : Nat) : (extU x pos len).getLsbD i = (decide (i < len) && x.getLsbD (pos + i)) := by
  rw [extU, BitVec.getLsbD_ofNat, testBit_fld, BitVec.testBit_toNat]
  simp only [hi, decide_true, Bool.true_and]

/-- EXTS repeats the field's highest bit (R148). -/
theorem getLsbD_extS (pos len : Nat) (hlen : 1 ≤ len) :
    (extS x pos len).getLsbD i = x.getLsbD (pos + min i (len - 1)) := by
  have field (j : Nat) (hj : j < len) : (BitVec.ofNat len (fld x.toNat pos len)).getLsbD j = x.getLsbD (pos + j) := by
    rw [BitVec.getLsbD_ofNat, testBit_fld, BitVec.testBit_toNat]
    simp only [hj, decide_true, Bool.true_and]
  rw [extS, sint_eq_toInt, ← BitVec.signExtend, BitVec.getLsbD_signExtend]
  simp only [hi, decide_true, Bool.true_and]
  split
  · next inside => rw [field i inside, Nat.min_eq_left (by omega)]
  · next above => rw [BitVec.msb_eq_getLsbD_last, field (len - 1) (by omega), Nat.min_eq_right (by omega)]

/-- ROTM reads the pair from byte `z[2:0]` on (R150). -/
theorem getLsbD_rotm : (rotm x y z).getLsbD i =
    if i + 8 * (z.toNat % 8) < 64 then x.getLsbD (i + 8 * (z.toNat % 8)) else y.getLsbD (i + 8 * (z.toNat % 8) - 64) := by
  rw [rotm, BitVec.getLsbD_ofNat, Nat.testBit_div_two_pow, Nat.mul_comm, Nat.testBit_two_pow_mul_add _ x.isLt]
  simp only [hi, decide_true, Bool.true_and, BitVec.testBit_toNat]

end

/-! ### The conditions by their codes (R126, R151) -/

theorem condHolds_equality (x y : Word) :
    condHolds 0 x y = decide (x.toNat = y.toNat) ∧ condHolds 1 x y = decide (x.toNat ≠ y.toNat) := by
  have eq : condHolds 0 x y = decide (x.toNat = y.toNat) := decide_eq_decide.mpr BitVec.toNat_inj.symm
  have ne : condHolds 1 x y = !condHolds 0 x y := rfl
  exact ⟨eq, by rw [ne, eq, ← decide_not]⟩

theorem condHolds_signed (x y : Word) :
    condHolds 2 x y = decide (x.toInt < y.toInt) ∧ condHolds 3 x y = decide (y.toInt ≤ x.toInt) ∧
    condHolds 6 x y = decide (y.toInt < x.toInt) ∧ condHolds 7 x y = decide (x.toInt ≤ y.toInt) :=
  ⟨rfl, rfl, rfl, rfl⟩

theorem condHolds_unsigned (x y : Word) :
    condHolds 4 x y = decide (x.toNat < y.toNat) ∧ condHolds 5 x y = decide (y.toNat ≤ x.toNat) ∧
    condHolds 8 x y = decide (y.toNat < x.toNat) ∧ condHolds 9 x y = decide (x.toNat ≤ y.toNat) :=
  ⟨rfl, rfl, rfl, rfl⟩

/-! ### The statements -/

/-- Settles O9: each operation is `aluI` on the sign-extended immediate, and a shift amount in 0-63 is its own low six bits. -/
theorem immediateResults : Obligations.ImmediateResults := by
  intro s d a imm x res
  refine ⟨?_, ?_, ?_, ?_, fun small => ⟨?_, ?_, ?_⟩, shiftImm_not_wf d a imm⟩
  · rw [exec_addi, execAddi, aluI_eq, BitVec.signExtend, word_add_ofInt]
  · rw [exec_andi, execAndi, aluI_eq, BitVec.signExtend]
  · rw [exec_ori, execOri, aluI_eq, BitVec.signExtend]
  · rw [exec_xori, execXori, aluI_eq, BitVec.signExtend]
  · rw [exec_shli, execShli, aluI_eq, shamt_signExtend imm small, word_shiftLeft_eq]
  · rw [exec_shri, execShri, aluI_eq, shamt_signExtend imm small, word_shiftRight_eq]
  · rw [exec_sari, execSari, aluI_eq, shamt_signExtend imm small, word_sshiftRight_eq]

/-- Settles O10: each operation puts its result function's word in flight, and that word is known bit by bit. -/
theorem fieldResults : Obligations.FieldResults := by
  intro s d a b c p hw pos len imm res
  refine ⟨fun _ => ⟨movk (s.cx.rs d) hw imm, ?_, fun i hi => getLsbD_movk _ hi hw imm⟩, ?_,
    ⟨rotm (s.cx.rs a) (s.cx.rs b) (s.cx.rs c), ?_, fun i hi => getLsbD_rotm _ _ _ hi⟩, fun hlen _ =>
    ⟨⟨extU (s.cx.rs a) pos len, ?_, fun i hi => getLsbD_extU _ hi pos len⟩,
      ⟨extS (s.cx.rs a) pos len, ?_, fun i hi => getLsbD_extS _ hi pos len hlen⟩,
      ⟨insF (s.cx.rs d) (s.cx.rs a) pos len, ?_, fun i hi => getLsbD_insF _ _ hi pos len⟩⟩⟩
  · rw [exec_movk, execMovk, aluI_eq]
  · rw [exec_sel, execSel, alu_eq]
  · rw [exec_rotm, execRotm, alu_eq]
  · rw [exec_ext, execExt, aluI_eq]
  · rw [exec_exts, execExts, aluI_eq]
  · rw [exec_ins, execIns, alu_eq]

/-- Settles O11: a compare writes `condHolds`, settled code by code, and the logic its function of the two operands. -/
theorem compareResults : Obligations.CompareResults := by
  intro s d a b imm na nb v res cond
  have codes (k : Nat) (hk : k < 10) (x y : Word) : condHolds k x y = cond k x y := by
    obtain ⟨eq, ne⟩ := condHolds_equality x y
    obtain ⟨lt, ge, gt, le⟩ := condHolds_signed x y
    obtain ⟨ltu, geu, gtu, leu⟩ := condHolds_unsigned x y
    match k, hk with
    | 0, _ => exact eq
    | 1, _ => exact ne
    | 2, _ => exact lt
    | 3, _ => exact ge
    | 4, _ => exact ltu
    | 5, _ => exact geu
    | 6, _ => exact gt
    | 7, _ => exact le
    | 8, _ => exact gtu
    | 9, _ => exact leu
  refine ⟨fun k hk => ⟨?_, ?_⟩, ?_, ?_, ?_, ?_, ?_, ?_⟩
  · rw [exec_cmp, execCmp, finish_laterP, codes k hk]
  · rw [exec_cmpi, execCmpi, finish_laterP, codes k hk, BitVec.signExtend]
  · rw [exec_pand, execPand, plogic_eq]
  · rw [exec_por, execPor, plogic_eq]
  · exact plogic_eq ..
  · simp only [exec_pandn, execPandn, plogic_eq, bne, Bool.not_not, res]
  · rw [exec_pset, execPset, finish_laterP]
  · rw [exec_nop, execNop, finish_eq, State.after_skip]

end Sys2Proof.Machine
end
